-- ==== Sys2Proof/Word.lean ====
section
/-! DEFINITION. The word types: 8-bit bytes (00_scope.md R6, "CPU data width 8 bits; PC 16 bits"), 16-bit CPU addresses,
13-bit bus addresses (R60) and the 32-bit counters (R7, R30). -/

namespace Sys2Proof

/-- An 8-bit value: every CPU register but PC, and every bus transfer (00_scope.md R6). -/
abbrev Byte := BitVec 8

/-- A 16-bit CPU address or PC (10_state.md R21). -/
abbrev Word := BitVec 16

/-- A masked bus address: `AS` = 13 bits (00_scope.md R6, 20_memory.md R60). -/
abbrev BusAddr := BitVec 13

/-- A `u32` (00_scope.md R7): `cycles`, the cycle stamps, `instruction_count`, `output_counter`. -/
abbrev U32 := BitVec 32

end Sys2Proof
end

