-- ==== Sys2Proof/Syntax.lean ====
section
/-! DEFINITION. The instructions: one constructor per row of spec/opcode_table.json (30_encoding.md R154), named by its
mnemonic and addressing mode. Operands (R141): `v` an immediate byte, `z` a zero-page address, `a` an absolute address or
base, `p` the address of JMP's pointer, `d` a branch's displacement as the signed number it stands for (R152, R157). JSR
carries the low byte of its target: its high byte is fetched by its meaning, after the pushes (42_control_flags.md R269;
assumption log 11). -/

namespace Sys2Proof

/-- The 151 documented instructions (00_scope.md R2). -/
inductive Instr where
  /-- $A9: LDA Imm, R200. -/
  | ldaImm (v : Byte)
  /-- $A5: LDA Zp, R200. -/
  | ldaZp (z : Byte)
  /-- $B5: LDA ZpX, R200. -/
  | ldaZpX (z : Byte)
  /-- $AD: LDA Abs, R200. -/
  | ldaAbs (a : Word)
  /-- $BD: LDA AbsX, R200. -/
  | ldaAbsX (a : Word)
  /-- $B9: LDA AbsY, R200. -/
  | ldaAbsY (a : Word)
  /-- $A1: LDA IndX, R200. -/
  | ldaIndX (z : Byte)
  /-- $B1: LDA IndY, R200. -/
  | ldaIndY (z : Byte)
  /-- $A2: LDX Imm, R201. -/
  | ldxImm (v : Byte)
  /-- $A6: LDX Zp, R201. -/
  | ldxZp (z : Byte)
  /-- $B6: LDX ZpY, R201. -/
  | ldxZpY (z : Byte)
  /-- $AE: LDX Abs, R201. -/
  | ldxAbs (a : Word)
  /-- $BE: LDX AbsY, R201. -/
  | ldxAbsY (a : Word)
  /-- $A0: LDY Imm, R202. -/
  | ldyImm (v : Byte)
  /-- $A4: LDY Zp, R202. -/
  | ldyZp (z : Byte)
  /-- $B4: LDY ZpX, R202. -/
  | ldyZpX (z : Byte)
  /-- $AC: LDY Abs, R202. -/
  | ldyAbs (a : Word)
  /-- $BC: LDY AbsX, R202. -/
  | ldyAbsX (a : Word)
  /-- $85: STA Zp, R203. -/
  | staZp (z : Byte)
  /-- $95: STA ZpX, R203. -/
  | staZpX (z : Byte)
  /-- $8D: STA Abs, R203. -/
  | staAbs (a : Word)
  /-- $9D: STA AbsX, R203. -/
  | staAbsX (a : Word)
  /-- $99: STA AbsY, R203. -/
  | staAbsY (a : Word)
  /-- $81: STA IndX, R203. -/
  | staIndX (z : Byte)
  /-- $91: STA IndY, R203. -/
  | staIndY (z : Byte)
  /-- $86: STX Zp, R204. -/
  | stxZp (z : Byte)
  /-- $96: STX ZpY, R204. -/
  | stxZpY (z : Byte)
  /-- $8E: STX Abs, R204. -/
  | stxAbs (a : Word)
  /-- $84: STY Zp, R205. -/
  | styZp (z : Byte)
  /-- $94: STY ZpX, R205. -/
  | styZpX (z : Byte)
  /-- $8C: STY Abs, R205. -/
  | styAbs (a : Word)
  /-- $AA: TAX Impl, R206. -/
  | tax
  /-- $A8: TAY Impl, R207. -/
  | tay
  /-- $8A: TXA Impl, R208. -/
  | txa
  /-- $98: TYA Impl, R209. -/
  | tya
  /-- $BA: TSX Impl, R210. -/
  | tsx
  /-- $9A: TXS Impl, R211. -/
  | txs
  /-- $48: PHA Impl, R212. -/
  | pha
  /-- $08: PHP Impl, R213. -/
  | php
  /-- $68: PLA Impl, R214. -/
  | pla
  /-- $28: PLP Impl, R215. -/
  | plp
  /-- $69: ADC Imm, R230. -/
  | adcImm (v : Byte)
  /-- $65: ADC Zp, R230. -/
  | adcZp (z : Byte)
  /-- $75: ADC ZpX, R230. -/
  | adcZpX (z : Byte)
  /-- $6D: ADC Abs, R230. -/
  | adcAbs (a : Word)
  /-- $7D: ADC AbsX, R230. -/
  | adcAbsX (a : Word)
  /-- $79: ADC AbsY, R230. -/
  | adcAbsY (a : Word)
  /-- $61: ADC IndX, R230. -/
  | adcIndX (z : Byte)
  /-- $71: ADC IndY, R230. -/
  | adcIndY (z : Byte)
  /-- $E9: SBC Imm, R231. -/
  | sbcImm (v : Byte)
  /-- $E5: SBC Zp, R231. -/
  | sbcZp (z : Byte)
  /-- $F5: SBC ZpX, R231. -/
  | sbcZpX (z : Byte)
  /-- $ED: SBC Abs, R231. -/
  | sbcAbs (a : Word)
  /-- $FD: SBC AbsX, R231. -/
  | sbcAbsX (a : Word)
  /-- $F9: SBC AbsY, R231. -/
  | sbcAbsY (a : Word)
  /-- $E1: SBC IndX, R231. -/
  | sbcIndX (z : Byte)
  /-- $F1: SBC IndY, R231. -/
  | sbcIndY (z : Byte)
  /-- $29: AND Imm, R232. -/
  | andImm (v : Byte)
  /-- $25: AND Zp, R232. -/
  | andZp (z : Byte)
  /-- $35: AND ZpX, R232. -/
  | andZpX (z : Byte)
  /-- $2D: AND Abs, R232. -/
  | andAbs (a : Word)
  /-- $3D: AND AbsX, R232. -/
  | andAbsX (a : Word)
  /-- $39: AND AbsY, R232. -/
  | andAbsY (a : Word)
  /-- $21: AND IndX, R232. -/
  | andIndX (z : Byte)
  /-- $31: AND IndY, R232. -/
  | andIndY (z : Byte)
  /-- $09: ORA Imm, R233. -/
  | oraImm (v : Byte)
  /-- $05: ORA Zp, R233. -/
  | oraZp (z : Byte)
  /-- $15: ORA ZpX, R233. -/
  | oraZpX (z : Byte)
  /-- $0D: ORA Abs, R233. -/
  | oraAbs (a : Word)
  /-- $1D: ORA AbsX, R233. -/
  | oraAbsX (a : Word)
  /-- $19: ORA AbsY, R233. -/
  | oraAbsY (a : Word)
  /-- $01: ORA IndX, R233. -/
  | oraIndX (z : Byte)
  /-- $11: ORA IndY, R233. -/
  | oraIndY (z : Byte)
  /-- $49: EOR Imm, R234. -/
  | eorImm (v : Byte)
  /-- $45: EOR Zp, R234. -/
  | eorZp (z : Byte)
  /-- $55: EOR ZpX, R234. -/
  | eorZpX (z : Byte)
  /-- $4D: EOR Abs, R234. -/
  | eorAbs (a : Word)
  /-- $5D: EOR AbsX, R234. -/
  | eorAbsX (a : Word)
  /-- $59: EOR AbsY, R234. -/
  | eorAbsY (a : Word)
  /-- $41: EOR IndX, R234. -/
  | eorIndX (z : Byte)
  /-- $51: EOR IndY, R234. -/
  | eorIndY (z : Byte)
  /-- $C9: CMP Imm, R235. -/
  | cmpImm (v : Byte)
  /-- $C5: CMP Zp, R235. -/
  | cmpZp (z : Byte)
  /-- $D5: CMP ZpX, R235. -/
  | cmpZpX (z : Byte)
  /-- $CD: CMP Abs, R235. -/
  | cmpAbs (a : Word)
  /-- $DD: CMP AbsX, R235. -/
  | cmpAbsX (a : Word)
  /-- $D9: CMP AbsY, R235. -/
  | cmpAbsY (a : Word)
  /-- $C1: CMP IndX, R235. -/
  | cmpIndX (z : Byte)
  /-- $D1: CMP IndY, R235. -/
  | cmpIndY (z : Byte)
  /-- $E0: CPX Imm, R236. -/
  | cpxImm (v : Byte)
  /-- $E4: CPX Zp, R236. -/
  | cpxZp (z : Byte)
  /-- $EC: CPX Abs, R236. -/
  | cpxAbs (a : Word)
  /-- $C0: CPY Imm, R237. -/
  | cpyImm (v : Byte)
  /-- $C4: CPY Zp, R237. -/
  | cpyZp (z : Byte)
  /-- $CC: CPY Abs, R237. -/
  | cpyAbs (a : Word)
  /-- $24: BIT Zp, R238. -/
  | bitZp (z : Byte)
  /-- $2C: BIT Abs, R238. -/
  | bitAbs (a : Word)
  /-- $E6: INC Zp, R239. -/
  | incZp (z : Byte)
  /-- $F6: INC ZpX, R239. -/
  | incZpX (z : Byte)
  /-- $EE: INC Abs, R239. -/
  | incAbs (a : Word)
  /-- $FE: INC AbsX, R239. -/
  | incAbsX (a : Word)
  /-- $C6: DEC Zp, R240. -/
  | decZp (z : Byte)
  /-- $D6: DEC ZpX, R240. -/
  | decZpX (z : Byte)
  /-- $CE: DEC Abs, R240. -/
  | decAbs (a : Word)
  /-- $DE: DEC AbsX, R240. -/
  | decAbsX (a : Word)
  /-- $E8: INX Impl, R241. -/
  | inx
  /-- $C8: INY Impl, R242. -/
  | iny
  /-- $CA: DEX Impl, R243. -/
  | dex
  /-- $88: DEY Impl, R244. -/
  | dey
  /-- $0A: ASL A, R245. -/
  | aslAcc
  /-- $06: ASL Zp, R245. -/
  | aslZp (z : Byte)
  /-- $16: ASL ZpX, R245. -/
  | aslZpX (z : Byte)
  /-- $0E: ASL Abs, R245. -/
  | aslAbs (a : Word)
  /-- $1E: ASL AbsX, R245. -/
  | aslAbsX (a : Word)
  /-- $4A: LSR A, R246. -/
  | lsrAcc
  /-- $46: LSR Zp, R246. -/
  | lsrZp (z : Byte)
  /-- $56: LSR ZpX, R246. -/
  | lsrZpX (z : Byte)
  /-- $4E: LSR Abs, R246. -/
  | lsrAbs (a : Word)
  /-- $5E: LSR AbsX, R246. -/
  | lsrAbsX (a : Word)
  /-- $2A: ROL A, R247. -/
  | rolAcc
  /-- $26: ROL Zp, R247. -/
  | rolZp (z : Byte)
  /-- $36: ROL ZpX, R247. -/
  | rolZpX (z : Byte)
  /-- $2E: ROL Abs, R247. -/
  | rolAbs (a : Word)
  /-- $3E: ROL AbsX, R247. -/
  | rolAbsX (a : Word)
  /-- $6A: ROR A, R248. -/
  | rorAcc
  /-- $66: ROR Zp, R248. -/
  | rorZp (z : Byte)
  /-- $76: ROR ZpX, R248. -/
  | rorZpX (z : Byte)
  /-- $6E: ROR Abs, R248. -/
  | rorAbs (a : Word)
  /-- $7E: ROR AbsX, R248. -/
  | rorAbsX (a : Word)
  /-- $90: BCC Rel, R260. -/
  | bcc (d : Int)
  /-- $B0: BCS Rel, R261. -/
  | bcs (d : Int)
  /-- $F0: BEQ Rel, R262. -/
  | beq (d : Int)
  /-- $30: BMI Rel, R263. -/
  | bmi (d : Int)
  /-- $D0: BNE Rel, R264. -/
  | bne (d : Int)
  /-- $10: BPL Rel, R265. -/
  | bpl (d : Int)
  /-- $50: BVC Rel, R266. -/
  | bvc (d : Int)
  /-- $70: BVS Rel, R267. -/
  | bvs (d : Int)
  /-- $4C: JMP Abs, R268. -/
  | jmpAbs (a : Word)
  /-- $6C: JMP Ind, R268. -/
  | jmpInd (p : Word)
  /-- $20: JSR Abs, R269. -/
  | jsr (lo : Byte)
  /-- $60: RTS Impl, R270. -/
  | rts
  /-- $00: BRK Impl, R271. -/
  | brk
  /-- $40: RTI Impl, R272. -/
  | rti
  /-- $EA: NOP Impl, R273. -/
  | nop
  /-- $18: CLC Impl, R274. -/
  | clc
  /-- $D8: CLD Impl, R275. -/
  | cld
  /-- $58: CLI Impl, R276. -/
  | cli
  /-- $B8: CLV Impl, R277. -/
  | clv
  /-- $38: SEC Impl, R278. -/
  | sec
  /-- $F8: SED Impl, R279. -/
  | sed
  /-- $78: SEI Impl, R280. -/
  | sei
deriving DecidableEq, Repr, Inhabited

end Sys2Proof
end

