-- ==== Sys2Proof/WellFormed.lean ====
section
/-! DEFINITION. Which terms of `Instr` an encoding stands for. Every operand but a branch's displacement is a bit vector of
exactly its field's width, so the one check is the displacement's range. -/

namespace Sys2Proof

/-- A displacement a branch can carry: "d = label - (address of branch + 2), which must lie in -128..127"
(30_encoding.md R157, R152). -/
def relInRange (d : Int) : Bool := decide (-128 ≤ d) && decide (d ≤ 127)

/-- The instruction is one the encoding of 30_encoding.md R154 can express. -/
def Instr.wf : Instr → Bool
  | .ldaImm _ => true
  | .ldaZp _ => true
  | .ldaZpX _ => true
  | .ldaAbs _ => true
  | .ldaAbsX _ => true
  | .ldaAbsY _ => true
  | .ldaIndX _ => true
  | .ldaIndY _ => true
  | .ldxImm _ => true
  | .ldxZp _ => true
  | .ldxZpY _ => true
  | .ldxAbs _ => true
  | .ldxAbsY _ => true
  | .ldyImm _ => true
  | .ldyZp _ => true
  | .ldyZpX _ => true
  | .ldyAbs _ => true
  | .ldyAbsX _ => true
  | .staZp _ => true
  | .staZpX _ => true
  | .staAbs _ => true
  | .staAbsX _ => true
  | .staAbsY _ => true
  | .staIndX _ => true
  | .staIndY _ => true
  | .stxZp _ => true
  | .stxZpY _ => true
  | .stxAbs _ => true
  | .styZp _ => true
  | .styZpX _ => true
  | .styAbs _ => true
  | .tax => true
  | .tay => true
  | .txa => true
  | .tya => true
  | .tsx => true
  | .txs => true
  | .pha => true
  | .php => true
  | .pla => true
  | .plp => true
  | .adcImm _ => true
  | .adcZp _ => true
  | .adcZpX _ => true
  | .adcAbs _ => true
  | .adcAbsX _ => true
  | .adcAbsY _ => true
  | .adcIndX _ => true
  | .adcIndY _ => true
  | .sbcImm _ => true
  | .sbcZp _ => true
  | .sbcZpX _ => true
  | .sbcAbs _ => true
  | .sbcAbsX _ => true
  | .sbcAbsY _ => true
  | .sbcIndX _ => true
  | .sbcIndY _ => true
  | .andImm _ => true
  | .andZp _ => true
  | .andZpX _ => true
  | .andAbs _ => true
  | .andAbsX _ => true
  | .andAbsY _ => true
  | .andIndX _ => true
  | .andIndY _ => true
  | .oraImm _ => true
  | .oraZp _ => true
  | .oraZpX _ => true
  | .oraAbs _ => true
  | .oraAbsX _ => true
  | .oraAbsY _ => true
  | .oraIndX _ => true
  | .oraIndY _ => true
  | .eorImm _ => true
  | .eorZp _ => true
  | .eorZpX _ => true
  | .eorAbs _ => true
  | .eorAbsX _ => true
  | .eorAbsY _ => true
  | .eorIndX _ => true
  | .eorIndY _ => true
  | .cmpImm _ => true
  | .cmpZp _ => true
  | .cmpZpX _ => true
  | .cmpAbs _ => true
  | .cmpAbsX _ => true
  | .cmpAbsY _ => true
  | .cmpIndX _ => true
  | .cmpIndY _ => true
  | .cpxImm _ => true
  | .cpxZp _ => true
  | .cpxAbs _ => true
  | .cpyImm _ => true
  | .cpyZp _ => true
  | .cpyAbs _ => true
  | .bitZp _ => true
  | .bitAbs _ => true
  | .incZp _ => true
  | .incZpX _ => true
  | .incAbs _ => true
  | .incAbsX _ => true
  | .decZp _ => true
  | .decZpX _ => true
  | .decAbs _ => true
  | .decAbsX _ => true
  | .inx => true
  | .iny => true
  | .dex => true
  | .dey => true
  | .aslAcc => true
  | .aslZp _ => true
  | .aslZpX _ => true
  | .aslAbs _ => true
  | .aslAbsX _ => true
  | .lsrAcc => true
  | .lsrZp _ => true
  | .lsrZpX _ => true
  | .lsrAbs _ => true
  | .lsrAbsX _ => true
  | .rolAcc => true
  | .rolZp _ => true
  | .rolZpX _ => true
  | .rolAbs _ => true
  | .rolAbsX _ => true
  | .rorAcc => true
  | .rorZp _ => true
  | .rorZpX _ => true
  | .rorAbs _ => true
  | .rorAbsX _ => true
  | .bcc d => relInRange d
  | .bcs d => relInRange d
  | .beq d => relInRange d
  | .bmi d => relInRange d
  | .bne d => relInRange d
  | .bpl d => relInRange d
  | .bvc d => relInRange d
  | .bvs d => relInRange d
  | .jmpAbs _ => true
  | .jmpInd _ => true
  | .jsr _ => true
  | .rts => true
  | .brk => true
  | .rti => true
  | .nop => true
  | .clc => true
  | .cld => true
  | .cli => true
  | .clv => true
  | .sec => true
  | .sed => true
  | .sei => true

end Sys2Proof
end

