-- ==== Sys2Proof/Decode.lean ====
section
/-! DEFINITION. Byte order, addressing modes, the decoder and the encoder (30_encoding.md). -/

namespace Sys2Proof

/-! ## Byte order (20_memory.md R70) -/

/-- `(hi << 8) | lo` (00_scope.md R7). -/
def wordOf (hi lo : Byte) : Word := hi ++ lo

/-- Bits 15..8 of a word. -/
def hiByte (w : Word) : Byte := w.extractLsb' 8 8

/-- Bits 7..0 of a word. -/
def loByte (w : Word) : Byte := w.extractLsb' 0 8

/-- `zext_16` (00_scope.md R7): an address in page zero. -/
def zeroPage (z : Byte) : Word := wordOf 0 z

/-- `sext_16` of a branch displacement (00_scope.md R7, 30_encoding.md R152). -/
def displacement (d : Int) : Word := BitVec.ofInt 16 d

/-! ## Forms -/

/-- The twelve addressing modes (00_scope.md R2, 30_encoding.md R141). -/
inductive Mode where
  | Impl | Imm | Zp | ZpX | ZpY | Abs | AbsX | AbsY | Ind | IndX | IndY | Rel
deriving DecidableEq, Repr, Inhabited

/-- The instruction's length in bytes, a function of its mode alone (30_encoding.md R141). -/
def Mode.length : Mode → Nat
  | .Impl => 1
  | .Imm => 2
  | .Zp => 2
  | .ZpX => 2
  | .ZpY => 2
  | .Abs => 3
  | .AbsX => 3
  | .AbsY => 3
  | .Ind => 3
  | .IndX => 2
  | .IndY => 2
  | .Rel => 2

/-- The 56 mnemonics (30_encoding.md R154). -/
inductive Mnemonic where
  | LDA | LDX | LDY | STA | STX | STY | TAX | TAY | TXA | TYA | TSX | TXS | PHA | PHP
  | PLA | PLP | ADC | SBC | AND | ORA | EOR | CMP | CPX | CPY | BIT | INC | DEC | INX
  | INY | DEX | DEY | ASL | LSR | ROL | ROR | BCC | BCS | BEQ | BMI | BNE | BPL | BVC
  | BVS | JMP | JSR | RTS | BRK | RTI | NOP | CLC | CLD | CLI | CLV | SEC | SED | SEI
deriving DecidableEq, Repr, Inhabited

/-- A memory operand: how its effective address is formed (30_encoding.md R145 to R151). -/
inductive MemOperand where
  | zp (z : Byte)
  | zpX (z : Byte)
  | zpY (z : Byte)
  | abs (a : Word)
  | absX (a : Word)
  | absY (a : Word)
  | indX (z : Byte)
  | indY (z : Byte)
deriving DecidableEq, Repr, Inhabited

/-- The operand of a read-class instruction (30_encoding.md R142): a byte of the instruction or a byte of memory. -/
inductive Source where
  | imm (v : Byte)
  | mem (m : MemOperand)
deriving DecidableEq, Repr, Inhabited

/-- Every operand form of the table. -/
inductive Operand where
  | implied
  | acc
  | src (o : Source)
  | target (a : Word)
  /-- JSR's low target byte (42_control_flags.md R269). -/
  | targetLow (lo : Byte)
  | ind (p : Word)
  | rel (d : Int)
deriving DecidableEq, Repr, Inhabited

def MemOperand.mode : MemOperand → Mode
  | .zp _ => .Zp
  | .zpX _ => .ZpX
  | .zpY _ => .ZpY
  | .abs _ => .Abs
  | .absX _ => .AbsX
  | .absY _ => .AbsY
  | .indX _ => .IndX
  | .indY _ => .IndY

def Operand.mode : Operand → Mode
  | .implied => .Impl
  | .acc => .Impl
  | .src (.imm _) => .Imm
  | .src (.mem m) => m.mode
  | .target _ => .Abs
  | .targetLow _ => .Abs
  | .ind _ => .Ind
  | .rel _ => .Rel

/-- A word's two operand bytes, low byte first (30_encoding.md R149). -/
def wordBytes (a : Word) : List Byte := [loByte a, hiByte a]

def MemOperand.bytes : MemOperand → List Byte
  | .zp z => [z]
  | .zpX z => [z]
  | .zpY z => [z]
  | .abs a => wordBytes a
  | .absX a => wordBytes a
  | .absY a => wordBytes a
  | .indX z => [z]
  | .indY z => [z]

/-- The operand bytes fetched before the instruction executes (30_encoding.md R141, R143): all of them but JSR's high byte. -/
def Operand.bytes : Operand → List Byte
  | .implied => []
  | .acc => []
  | .src (.imm v) => [v]
  | .src (.mem m) => m.bytes
  | .target a => wordBytes a
  | .targetLow lo => [lo]
  | .ind p => wordBytes p
  | .rel d => [BitVec.ofInt 8 d]

/-- The instruction's mnemonic. -/
def Instr.mnemonic : Instr → Mnemonic
  | .ldaImm _ => .LDA
  | .ldaZp _ => .LDA
  | .ldaZpX _ => .LDA
  | .ldaAbs _ => .LDA
  | .ldaAbsX _ => .LDA
  | .ldaAbsY _ => .LDA
  | .ldaIndX _ => .LDA
  | .ldaIndY _ => .LDA
  | .ldxImm _ => .LDX
  | .ldxZp _ => .LDX
  | .ldxZpY _ => .LDX
  | .ldxAbs _ => .LDX
  | .ldxAbsY _ => .LDX
  | .ldyImm _ => .LDY
  | .ldyZp _ => .LDY
  | .ldyZpX _ => .LDY
  | .ldyAbs _ => .LDY
  | .ldyAbsX _ => .LDY
  | .staZp _ => .STA
  | .staZpX _ => .STA
  | .staAbs _ => .STA
  | .staAbsX _ => .STA
  | .staAbsY _ => .STA
  | .staIndX _ => .STA
  | .staIndY _ => .STA
  | .stxZp _ => .STX
  | .stxZpY _ => .STX
  | .stxAbs _ => .STX
  | .styZp _ => .STY
  | .styZpX _ => .STY
  | .styAbs _ => .STY
  | .tax => .TAX
  | .tay => .TAY
  | .txa => .TXA
  | .tya => .TYA
  | .tsx => .TSX
  | .txs => .TXS
  | .pha => .PHA
  | .php => .PHP
  | .pla => .PLA
  | .plp => .PLP
  | .adcImm _ => .ADC
  | .adcZp _ => .ADC
  | .adcZpX _ => .ADC
  | .adcAbs _ => .ADC
  | .adcAbsX _ => .ADC
  | .adcAbsY _ => .ADC
  | .adcIndX _ => .ADC
  | .adcIndY _ => .ADC
  | .sbcImm _ => .SBC
  | .sbcZp _ => .SBC
  | .sbcZpX _ => .SBC
  | .sbcAbs _ => .SBC
  | .sbcAbsX _ => .SBC
  | .sbcAbsY _ => .SBC
  | .sbcIndX _ => .SBC
  | .sbcIndY _ => .SBC
  | .andImm _ => .AND
  | .andZp _ => .AND
  | .andZpX _ => .AND
  | .andAbs _ => .AND
  | .andAbsX _ => .AND
  | .andAbsY _ => .AND
  | .andIndX _ => .AND
  | .andIndY _ => .AND
  | .oraImm _ => .ORA
  | .oraZp _ => .ORA
  | .oraZpX _ => .ORA
  | .oraAbs _ => .ORA
  | .oraAbsX _ => .ORA
  | .oraAbsY _ => .ORA
  | .oraIndX _ => .ORA
  | .oraIndY _ => .ORA
  | .eorImm _ => .EOR
  | .eorZp _ => .EOR
  | .eorZpX _ => .EOR
  | .eorAbs _ => .EOR
  | .eorAbsX _ => .EOR
  | .eorAbsY _ => .EOR
  | .eorIndX _ => .EOR
  | .eorIndY _ => .EOR
  | .cmpImm _ => .CMP
  | .cmpZp _ => .CMP
  | .cmpZpX _ => .CMP
  | .cmpAbs _ => .CMP
  | .cmpAbsX _ => .CMP
  | .cmpAbsY _ => .CMP
  | .cmpIndX _ => .CMP
  | .cmpIndY _ => .CMP
  | .cpxImm _ => .CPX
  | .cpxZp _ => .CPX
  | .cpxAbs _ => .CPX
  | .cpyImm _ => .CPY
  | .cpyZp _ => .CPY
  | .cpyAbs _ => .CPY
  | .bitZp _ => .BIT
  | .bitAbs _ => .BIT
  | .incZp _ => .INC
  | .incZpX _ => .INC
  | .incAbs _ => .INC
  | .incAbsX _ => .INC
  | .decZp _ => .DEC
  | .decZpX _ => .DEC
  | .decAbs _ => .DEC
  | .decAbsX _ => .DEC
  | .inx => .INX
  | .iny => .INY
  | .dex => .DEX
  | .dey => .DEY
  | .aslAcc => .ASL
  | .aslZp _ => .ASL
  | .aslZpX _ => .ASL
  | .aslAbs _ => .ASL
  | .aslAbsX _ => .ASL
  | .lsrAcc => .LSR
  | .lsrZp _ => .LSR
  | .lsrZpX _ => .LSR
  | .lsrAbs _ => .LSR
  | .lsrAbsX _ => .LSR
  | .rolAcc => .ROL
  | .rolZp _ => .ROL
  | .rolZpX _ => .ROL
  | .rolAbs _ => .ROL
  | .rolAbsX _ => .ROL
  | .rorAcc => .ROR
  | .rorZp _ => .ROR
  | .rorZpX _ => .ROR
  | .rorAbs _ => .ROR
  | .rorAbsX _ => .ROR
  | .bcc _ => .BCC
  | .bcs _ => .BCS
  | .beq _ => .BEQ
  | .bmi _ => .BMI
  | .bne _ => .BNE
  | .bpl _ => .BPL
  | .bvc _ => .BVC
  | .bvs _ => .BVS
  | .jmpAbs _ => .JMP
  | .jmpInd _ => .JMP
  | .jsr _ => .JSR
  | .rts => .RTS
  | .brk => .BRK
  | .rti => .RTI
  | .nop => .NOP
  | .clc => .CLC
  | .cld => .CLD
  | .cli => .CLI
  | .clv => .CLV
  | .sec => .SEC
  | .sed => .SED
  | .sei => .SEI

/-- The instruction's operand. -/
def Instr.operand : Instr → Operand
  | .ldaImm v => .src (.imm v)
  | .ldaZp z => .src (.mem (.zp z))
  | .ldaZpX z => .src (.mem (.zpX z))
  | .ldaAbs a => .src (.mem (.abs a))
  | .ldaAbsX a => .src (.mem (.absX a))
  | .ldaAbsY a => .src (.mem (.absY a))
  | .ldaIndX z => .src (.mem (.indX z))
  | .ldaIndY z => .src (.mem (.indY z))
  | .ldxImm v => .src (.imm v)
  | .ldxZp z => .src (.mem (.zp z))
  | .ldxZpY z => .src (.mem (.zpY z))
  | .ldxAbs a => .src (.mem (.abs a))
  | .ldxAbsY a => .src (.mem (.absY a))
  | .ldyImm v => .src (.imm v)
  | .ldyZp z => .src (.mem (.zp z))
  | .ldyZpX z => .src (.mem (.zpX z))
  | .ldyAbs a => .src (.mem (.abs a))
  | .ldyAbsX a => .src (.mem (.absX a))
  | .staZp z => .src (.mem (.zp z))
  | .staZpX z => .src (.mem (.zpX z))
  | .staAbs a => .src (.mem (.abs a))
  | .staAbsX a => .src (.mem (.absX a))
  | .staAbsY a => .src (.mem (.absY a))
  | .staIndX z => .src (.mem (.indX z))
  | .staIndY z => .src (.mem (.indY z))
  | .stxZp z => .src (.mem (.zp z))
  | .stxZpY z => .src (.mem (.zpY z))
  | .stxAbs a => .src (.mem (.abs a))
  | .styZp z => .src (.mem (.zp z))
  | .styZpX z => .src (.mem (.zpX z))
  | .styAbs a => .src (.mem (.abs a))
  | .tax => .implied
  | .tay => .implied
  | .txa => .implied
  | .tya => .implied
  | .tsx => .implied
  | .txs => .implied
  | .pha => .implied
  | .php => .implied
  | .pla => .implied
  | .plp => .implied
  | .adcImm v => .src (.imm v)
  | .adcZp z => .src (.mem (.zp z))
  | .adcZpX z => .src (.mem (.zpX z))
  | .adcAbs a => .src (.mem (.abs a))
  | .adcAbsX a => .src (.mem (.absX a))
  | .adcAbsY a => .src (.mem (.absY a))
  | .adcIndX z => .src (.mem (.indX z))
  | .adcIndY z => .src (.mem (.indY z))
  | .sbcImm v => .src (.imm v)
  | .sbcZp z => .src (.mem (.zp z))
  | .sbcZpX z => .src (.mem (.zpX z))
  | .sbcAbs a => .src (.mem (.abs a))
  | .sbcAbsX a => .src (.mem (.absX a))
  | .sbcAbsY a => .src (.mem (.absY a))
  | .sbcIndX z => .src (.mem (.indX z))
  | .sbcIndY z => .src (.mem (.indY z))
  | .andImm v => .src (.imm v)
  | .andZp z => .src (.mem (.zp z))
  | .andZpX z => .src (.mem (.zpX z))
  | .andAbs a => .src (.mem (.abs a))
  | .andAbsX a => .src (.mem (.absX a))
  | .andAbsY a => .src (.mem (.absY a))
  | .andIndX z => .src (.mem (.indX z))
  | .andIndY z => .src (.mem (.indY z))
  | .oraImm v => .src (.imm v)
  | .oraZp z => .src (.mem (.zp z))
  | .oraZpX z => .src (.mem (.zpX z))
  | .oraAbs a => .src (.mem (.abs a))
  | .oraAbsX a => .src (.mem (.absX a))
  | .oraAbsY a => .src (.mem (.absY a))
  | .oraIndX z => .src (.mem (.indX z))
  | .oraIndY z => .src (.mem (.indY z))
  | .eorImm v => .src (.imm v)
  | .eorZp z => .src (.mem (.zp z))
  | .eorZpX z => .src (.mem (.zpX z))
  | .eorAbs a => .src (.mem (.abs a))
  | .eorAbsX a => .src (.mem (.absX a))
  | .eorAbsY a => .src (.mem (.absY a))
  | .eorIndX z => .src (.mem (.indX z))
  | .eorIndY z => .src (.mem (.indY z))
  | .cmpImm v => .src (.imm v)
  | .cmpZp z => .src (.mem (.zp z))
  | .cmpZpX z => .src (.mem (.zpX z))
  | .cmpAbs a => .src (.mem (.abs a))
  | .cmpAbsX a => .src (.mem (.absX a))
  | .cmpAbsY a => .src (.mem (.absY a))
  | .cmpIndX z => .src (.mem (.indX z))
  | .cmpIndY z => .src (.mem (.indY z))
  | .cpxImm v => .src (.imm v)
  | .cpxZp z => .src (.mem (.zp z))
  | .cpxAbs a => .src (.mem (.abs a))
  | .cpyImm v => .src (.imm v)
  | .cpyZp z => .src (.mem (.zp z))
  | .cpyAbs a => .src (.mem (.abs a))
  | .bitZp z => .src (.mem (.zp z))
  | .bitAbs a => .src (.mem (.abs a))
  | .incZp z => .src (.mem (.zp z))
  | .incZpX z => .src (.mem (.zpX z))
  | .incAbs a => .src (.mem (.abs a))
  | .incAbsX a => .src (.mem (.absX a))
  | .decZp z => .src (.mem (.zp z))
  | .decZpX z => .src (.mem (.zpX z))
  | .decAbs a => .src (.mem (.abs a))
  | .decAbsX a => .src (.mem (.absX a))
  | .inx => .implied
  | .iny => .implied
  | .dex => .implied
  | .dey => .implied
  | .aslAcc => .acc
  | .aslZp z => .src (.mem (.zp z))
  | .aslZpX z => .src (.mem (.zpX z))
  | .aslAbs a => .src (.mem (.abs a))
  | .aslAbsX a => .src (.mem (.absX a))
  | .lsrAcc => .acc
  | .lsrZp z => .src (.mem (.zp z))
  | .lsrZpX z => .src (.mem (.zpX z))
  | .lsrAbs a => .src (.mem (.abs a))
  | .lsrAbsX a => .src (.mem (.absX a))
  | .rolAcc => .acc
  | .rolZp z => .src (.mem (.zp z))
  | .rolZpX z => .src (.mem (.zpX z))
  | .rolAbs a => .src (.mem (.abs a))
  | .rolAbsX a => .src (.mem (.absX a))
  | .rorAcc => .acc
  | .rorZp z => .src (.mem (.zp z))
  | .rorZpX z => .src (.mem (.zpX z))
  | .rorAbs a => .src (.mem (.abs a))
  | .rorAbsX a => .src (.mem (.absX a))
  | .bcc d => .rel d
  | .bcs d => .rel d
  | .beq d => .rel d
  | .bmi d => .rel d
  | .bne d => .rel d
  | .bpl d => .rel d
  | .bvc d => .rel d
  | .bvs d => .rel d
  | .jmpAbs a => .target a
  | .jmpInd p => .ind p
  | .jsr lo => .targetLow lo
  | .rts => .implied
  | .brk => .implied
  | .rti => .implied
  | .nop => .implied
  | .clc => .implied
  | .cld => .implied
  | .cli => .implied
  | .clv => .implied
  | .sec => .implied
  | .sed => .implied
  | .sei => .implied

/-- The instruction's addressing mode. -/
def Instr.mode (i : Instr) : Mode := i.operand.mode

/-- The opcode byte (30_encoding.md R154). -/
def Instr.opcode : Instr → Byte
  | .ldaImm _ => 0xA9
  | .ldaZp _ => 0xA5
  | .ldaZpX _ => 0xB5
  | .ldaAbs _ => 0xAD
  | .ldaAbsX _ => 0xBD
  | .ldaAbsY _ => 0xB9
  | .ldaIndX _ => 0xA1
  | .ldaIndY _ => 0xB1
  | .ldxImm _ => 0xA2
  | .ldxZp _ => 0xA6
  | .ldxZpY _ => 0xB6
  | .ldxAbs _ => 0xAE
  | .ldxAbsY _ => 0xBE
  | .ldyImm _ => 0xA0
  | .ldyZp _ => 0xA4
  | .ldyZpX _ => 0xB4
  | .ldyAbs _ => 0xAC
  | .ldyAbsX _ => 0xBC
  | .staZp _ => 0x85
  | .staZpX _ => 0x95
  | .staAbs _ => 0x8D
  | .staAbsX _ => 0x9D
  | .staAbsY _ => 0x99
  | .staIndX _ => 0x81
  | .staIndY _ => 0x91
  | .stxZp _ => 0x86
  | .stxZpY _ => 0x96
  | .stxAbs _ => 0x8E
  | .styZp _ => 0x84
  | .styZpX _ => 0x94
  | .styAbs _ => 0x8C
  | .tax => 0xAA
  | .tay => 0xA8
  | .txa => 0x8A
  | .tya => 0x98
  | .tsx => 0xBA
  | .txs => 0x9A
  | .pha => 0x48
  | .php => 0x08
  | .pla => 0x68
  | .plp => 0x28
  | .adcImm _ => 0x69
  | .adcZp _ => 0x65
  | .adcZpX _ => 0x75
  | .adcAbs _ => 0x6D
  | .adcAbsX _ => 0x7D
  | .adcAbsY _ => 0x79
  | .adcIndX _ => 0x61
  | .adcIndY _ => 0x71
  | .sbcImm _ => 0xE9
  | .sbcZp _ => 0xE5
  | .sbcZpX _ => 0xF5
  | .sbcAbs _ => 0xED
  | .sbcAbsX _ => 0xFD
  | .sbcAbsY _ => 0xF9
  | .sbcIndX _ => 0xE1
  | .sbcIndY _ => 0xF1
  | .andImm _ => 0x29
  | .andZp _ => 0x25
  | .andZpX _ => 0x35
  | .andAbs _ => 0x2D
  | .andAbsX _ => 0x3D
  | .andAbsY _ => 0x39
  | .andIndX _ => 0x21
  | .andIndY _ => 0x31
  | .oraImm _ => 0x09
  | .oraZp _ => 0x05
  | .oraZpX _ => 0x15
  | .oraAbs _ => 0x0D
  | .oraAbsX _ => 0x1D
  | .oraAbsY _ => 0x19
  | .oraIndX _ => 0x01
  | .oraIndY _ => 0x11
  | .eorImm _ => 0x49
  | .eorZp _ => 0x45
  | .eorZpX _ => 0x55
  | .eorAbs _ => 0x4D
  | .eorAbsX _ => 0x5D
  | .eorAbsY _ => 0x59
  | .eorIndX _ => 0x41
  | .eorIndY _ => 0x51
  | .cmpImm _ => 0xC9
  | .cmpZp _ => 0xC5
  | .cmpZpX _ => 0xD5
  | .cmpAbs _ => 0xCD
  | .cmpAbsX _ => 0xDD
  | .cmpAbsY _ => 0xD9
  | .cmpIndX _ => 0xC1
  | .cmpIndY _ => 0xD1
  | .cpxImm _ => 0xE0
  | .cpxZp _ => 0xE4
  | .cpxAbs _ => 0xEC
  | .cpyImm _ => 0xC0
  | .cpyZp _ => 0xC4
  | .cpyAbs _ => 0xCC
  | .bitZp _ => 0x24
  | .bitAbs _ => 0x2C
  | .incZp _ => 0xE6
  | .incZpX _ => 0xF6
  | .incAbs _ => 0xEE
  | .incAbsX _ => 0xFE
  | .decZp _ => 0xC6
  | .decZpX _ => 0xD6
  | .decAbs _ => 0xCE
  | .decAbsX _ => 0xDE
  | .inx => 0xE8
  | .iny => 0xC8
  | .dex => 0xCA
  | .dey => 0x88
  | .aslAcc => 0x0A
  | .aslZp _ => 0x06
  | .aslZpX _ => 0x16
  | .aslAbs _ => 0x0E
  | .aslAbsX _ => 0x1E
  | .lsrAcc => 0x4A
  | .lsrZp _ => 0x46
  | .lsrZpX _ => 0x56
  | .lsrAbs _ => 0x4E
  | .lsrAbsX _ => 0x5E
  | .rolAcc => 0x2A
  | .rolZp _ => 0x26
  | .rolZpX _ => 0x36
  | .rolAbs _ => 0x2E
  | .rolAbsX _ => 0x3E
  | .rorAcc => 0x6A
  | .rorZp _ => 0x66
  | .rorZpX _ => 0x76
  | .rorAbs _ => 0x6E
  | .rorAbsX _ => 0x7E
  | .bcc _ => 0x90
  | .bcs _ => 0xB0
  | .beq _ => 0xF0
  | .bmi _ => 0x30
  | .bne _ => 0xD0
  | .bpl _ => 0x10
  | .bvc _ => 0x50
  | .bvs _ => 0x70
  | .jmpAbs _ => 0x4C
  | .jmpInd _ => 0x6C
  | .jsr _ => 0x20
  | .rts => 0x60
  | .brk => 0x00
  | .rti => 0x40
  | .nop => 0xEA
  | .clc => 0x18
  | .cld => 0xD8
  | .cli => 0x58
  | .clv => 0xB8
  | .sec => 0x38
  | .sed => 0xF8
  | .sei => 0x78

/-! ## Decoder -/

/-- Why bytes are no instruction. -/
inductive DecodeError where
  | noBytes
  /-- One of the 105 bytes of 30_encoding.md R155. -/
  | illegalOpcode (op : Byte)
  | truncated (op : Byte)
deriving DecidableEq, Repr, Inhabited

/-- The opcode map (30_encoding.md R154): the instruction of an opcode with operand bytes `b1`, `b2`; `none` on the 105
illegal bytes (R155). -/
def instrOf (op b1 b2 : Byte) : Option Instr :=
  match op.toNat with
  | 0x00 => some .brk
  | 0x01 => some (.oraIndX b1)
  | 0x05 => some (.oraZp b1)
  | 0x06 => some (.aslZp b1)
  | 0x08 => some .php
  | 0x09 => some (.oraImm b1)
  | 0x0A => some .aslAcc
  | 0x0D => some (.oraAbs (wordOf b2 b1))
  | 0x0E => some (.aslAbs (wordOf b2 b1))
  | 0x10 => some (.bpl b1.toInt)
  | 0x11 => some (.oraIndY b1)
  | 0x15 => some (.oraZpX b1)
  | 0x16 => some (.aslZpX b1)
  | 0x18 => some .clc
  | 0x19 => some (.oraAbsY (wordOf b2 b1))
  | 0x1D => some (.oraAbsX (wordOf b2 b1))
  | 0x1E => some (.aslAbsX (wordOf b2 b1))
  | 0x20 => some (.jsr b1)
  | 0x21 => some (.andIndX b1)
  | 0x24 => some (.bitZp b1)
  | 0x25 => some (.andZp b1)
  | 0x26 => some (.rolZp b1)
  | 0x28 => some .plp
  | 0x29 => some (.andImm b1)
  | 0x2A => some .rolAcc
  | 0x2C => some (.bitAbs (wordOf b2 b1))
  | 0x2D => some (.andAbs (wordOf b2 b1))
  | 0x2E => some (.rolAbs (wordOf b2 b1))
  | 0x30 => some (.bmi b1.toInt)
  | 0x31 => some (.andIndY b1)
  | 0x35 => some (.andZpX b1)
  | 0x36 => some (.rolZpX b1)
  | 0x38 => some .sec
  | 0x39 => some (.andAbsY (wordOf b2 b1))
  | 0x3D => some (.andAbsX (wordOf b2 b1))
  | 0x3E => some (.rolAbsX (wordOf b2 b1))
  | 0x40 => some .rti
  | 0x41 => some (.eorIndX b1)
  | 0x45 => some (.eorZp b1)
  | 0x46 => some (.lsrZp b1)
  | 0x48 => some .pha
  | 0x49 => some (.eorImm b1)
  | 0x4A => some .lsrAcc
  | 0x4C => some (.jmpAbs (wordOf b2 b1))
  | 0x4D => some (.eorAbs (wordOf b2 b1))
  | 0x4E => some (.lsrAbs (wordOf b2 b1))
  | 0x50 => some (.bvc b1.toInt)
  | 0x51 => some (.eorIndY b1)
  | 0x55 => some (.eorZpX b1)
  | 0x56 => some (.lsrZpX b1)
  | 0x58 => some .cli
  | 0x59 => some (.eorAbsY (wordOf b2 b1))
  | 0x5D => some (.eorAbsX (wordOf b2 b1))
  | 0x5E => some (.lsrAbsX (wordOf b2 b1))
  | 0x60 => some .rts
  | 0x61 => some (.adcIndX b1)
  | 0x65 => some (.adcZp b1)
  | 0x66 => some (.rorZp b1)
  | 0x68 => some .pla
  | 0x69 => some (.adcImm b1)
  | 0x6A => some .rorAcc
  | 0x6C => some (.jmpInd (wordOf b2 b1))
  | 0x6D => some (.adcAbs (wordOf b2 b1))
  | 0x6E => some (.rorAbs (wordOf b2 b1))
  | 0x70 => some (.bvs b1.toInt)
  | 0x71 => some (.adcIndY b1)
  | 0x75 => some (.adcZpX b1)
  | 0x76 => some (.rorZpX b1)
  | 0x78 => some .sei
  | 0x79 => some (.adcAbsY (wordOf b2 b1))
  | 0x7D => some (.adcAbsX (wordOf b2 b1))
  | 0x7E => some (.rorAbsX (wordOf b2 b1))
  | 0x81 => some (.staIndX b1)
  | 0x84 => some (.styZp b1)
  | 0x85 => some (.staZp b1)
  | 0x86 => some (.stxZp b1)
  | 0x88 => some .dey
  | 0x8A => some .txa
  | 0x8C => some (.styAbs (wordOf b2 b1))
  | 0x8D => some (.staAbs (wordOf b2 b1))
  | 0x8E => some (.stxAbs (wordOf b2 b1))
  | 0x90 => some (.bcc b1.toInt)
  | 0x91 => some (.staIndY b1)
  | 0x94 => some (.styZpX b1)
  | 0x95 => some (.staZpX b1)
  | 0x96 => some (.stxZpY b1)
  | 0x98 => some .tya
  | 0x99 => some (.staAbsY (wordOf b2 b1))
  | 0x9A => some .txs
  | 0x9D => some (.staAbsX (wordOf b2 b1))
  | 0xA0 => some (.ldyImm b1)
  | 0xA1 => some (.ldaIndX b1)
  | 0xA2 => some (.ldxImm b1)
  | 0xA4 => some (.ldyZp b1)
  | 0xA5 => some (.ldaZp b1)
  | 0xA6 => some (.ldxZp b1)
  | 0xA8 => some .tay
  | 0xA9 => some (.ldaImm b1)
  | 0xAA => some .tax
  | 0xAC => some (.ldyAbs (wordOf b2 b1))
  | 0xAD => some (.ldaAbs (wordOf b2 b1))
  | 0xAE => some (.ldxAbs (wordOf b2 b1))
  | 0xB0 => some (.bcs b1.toInt)
  | 0xB1 => some (.ldaIndY b1)
  | 0xB4 => some (.ldyZpX b1)
  | 0xB5 => some (.ldaZpX b1)
  | 0xB6 => some (.ldxZpY b1)
  | 0xB8 => some .clv
  | 0xB9 => some (.ldaAbsY (wordOf b2 b1))
  | 0xBA => some .tsx
  | 0xBC => some (.ldyAbsX (wordOf b2 b1))
  | 0xBD => some (.ldaAbsX (wordOf b2 b1))
  | 0xBE => some (.ldxAbsY (wordOf b2 b1))
  | 0xC0 => some (.cpyImm b1)
  | 0xC1 => some (.cmpIndX b1)
  | 0xC4 => some (.cpyZp b1)
  | 0xC5 => some (.cmpZp b1)
  | 0xC6 => some (.decZp b1)
  | 0xC8 => some .iny
  | 0xC9 => some (.cmpImm b1)
  | 0xCA => some .dex
  | 0xCC => some (.cpyAbs (wordOf b2 b1))
  | 0xCD => some (.cmpAbs (wordOf b2 b1))
  | 0xCE => some (.decAbs (wordOf b2 b1))
  | 0xD0 => some (.bne b1.toInt)
  | 0xD1 => some (.cmpIndY b1)
  | 0xD5 => some (.cmpZpX b1)
  | 0xD6 => some (.decZpX b1)
  | 0xD8 => some .cld
  | 0xD9 => some (.cmpAbsY (wordOf b2 b1))
  | 0xDD => some (.cmpAbsX (wordOf b2 b1))
  | 0xDE => some (.decAbsX (wordOf b2 b1))
  | 0xE0 => some (.cpxImm b1)
  | 0xE1 => some (.sbcIndX b1)
  | 0xE4 => some (.cpxZp b1)
  | 0xE5 => some (.sbcZp b1)
  | 0xE6 => some (.incZp b1)
  | 0xE8 => some .inx
  | 0xE9 => some (.sbcImm b1)
  | 0xEA => some .nop
  | 0xEC => some (.cpxAbs (wordOf b2 b1))
  | 0xED => some (.sbcAbs (wordOf b2 b1))
  | 0xEE => some (.incAbs (wordOf b2 b1))
  | 0xF0 => some (.beq b1.toInt)
  | 0xF1 => some (.sbcIndY b1)
  | 0xF5 => some (.sbcZpX b1)
  | 0xF6 => some (.incZpX b1)
  | 0xF8 => some .sed
  | 0xF9 => some (.sbcAbsY (wordOf b2 b1))
  | 0xFD => some (.sbcAbsX (wordOf b2 b1))
  | 0xFE => some (.incAbsX (wordOf b2 b1))
  | _ => none

/-- The opcode is one of the 151 (30_encoding.md R154). -/
def legalOpcode (op : Byte) : Bool := (instrOf op 0 0).isSome

/-- `addressing_mode(opcode)`: "a pure table lookup" (60_exceptions.md R306). -/
def addressingMode (op : Byte) : Option Mode := (instrOf op 0 0).map Instr.mode

/-- How many operand bytes are fetched before the instruction of a legal opcode executes. -/
def operandBytesOf (op : Byte) : Nat := ((instrOf op 0 0).map fun i => i.operand.bytes.length).getD 0

/-- The instruction at the head of `bytes` and the bytes after it (30_encoding.md R140). -/
def decode (bytes : List Byte) : Except DecodeError (Instr × List Byte) :=
  match bytes with
  | [] => .error .noBytes
  | op :: rest =>
    match instrOf op (rest.getD 0 0) (rest.getD 1 0) with
    | none => .error (.illegalOpcode op)
    | some i =>
      if rest.length < i.operand.bytes.length then .error (.truncated op)
      else .ok (i, rest.drop i.operand.bytes.length)

/-! ## Encoder -/

/-- The bytes of an instruction, in address order, as far as they are fetched before it executes (JSR's high byte is
not: assumption log 11). -/
def encode (i : Instr) : List Byte := i.opcode :: i.operand.bytes

/-! ## The host's numbering -/

/-- Byte `k` of an instruction whose bits are `w`. -/
def tableByte (nbits w k : Nat) : Byte := BitVec.ofNat 8 (w % 2 ^ nbits / 2 ^ (8 * k))

/-- The instruction the decoder reads from an instruction whose bits are `w`, bits above `nbits` zero. -/
def decodeTableWord (nbits w : Nat) : Option Instr :=
  match decode [tableByte nbits w 0, tableByte nbits w 1, tableByte nbits w 2] with
  | .ok (i, _) => some i
  | .error _ => none

end Sys2Proof
end

