-- ==== Sys2Proof/Config.lean ====
section
/-! DEFINITION. What is fixed for one machine (00_scope.md R6; the OPEN parameters of 92_eei_decisions.md) and the free
values. A `Config` stands in the state (`System.cfg`) as data no step changes, so that a claim about every state is a claim
about every configuration. -/

namespace Sys2Proof

/-- A finite IEEE-754 binary64 number, `sig * 2 ^ exp` (60_exceptions.md R360). Canonical: zero is `⟨0, 0⟩`; any other
has `2^52 ≤ |sig| < 2^53` and `exp ≥ -1074`, or `|sig| < 2^52` and `exp = -1074`. No infinity, NaN or negative zero
(assumption log 20). -/
structure F64 where
  sig : Int
  exp : Int
deriving DecidableEq, Repr, Inhabited

/-- `sp_reset` (10_state.md R20, 92 D5): the two values the source gives. -/
inductive SpReset where
  | fd
  | ff
deriving DecidableEq, Repr, Inhabited

/-- `riot_read_after_underflow` (60_exceptions.md R326, 92 D19). -/
inductive UnderflowRead where
  | continue1T
  | draw
deriving DecidableEq, Repr, Inhabited

/-- The TIA video collaborator (20_memory.md R77, 92 D16). `free`: each of its pokes may add any number of cycles and may
stop `execute`. `quiet`: it does neither, as the vectors of 95_test_vectors.md assume. Its peeks are draws either way. -/
inductive TiaVideo where
  | free
  | quiet
deriving DecidableEq, Repr, Inhabited

/-- The `mix` parameter (60_exceptions.md R366, 92 D33): the default function, or another one. -/
inductive MixRule where
  | standard
  | other
deriving DecidableEq, Repr, Inhabited

/-- `channels` ∈ {1, 2} (60_exceptions.md R356). -/
inductive Channels where
  | mono
  | stereo
deriving DecidableEq, Repr, Inhabited

/-- The waveform tables as parameters (60_exceptions.md R352, 92 D32): 15, 31, 511 and 31 bits. -/
structure WaveTables where
  poly4 : List Bool
  poly5 : List Bool
  poly9 : List Bool
  div31 : List Bool
deriving DecidableEq, Repr, Inhabited

/-- The RIOT timer's interval: `timer_shift` ∈ {0, 3, 6, 10} (60_exceptions.md R325). -/
inductive Interval where
  | i1
  | i8
  | i64
  | i1024
deriving DecidableEq, Repr, Inhabited

/-- The draws of a reset (70_reset_and_hazards.md R402, R403; 60_exceptions.md R332): what a reset leaves where the spec
fixes nothing. Every value is allowed; the defaults are assumption log 1, 3 and 4, and that all resets of a run share them is log 40. -/
structure ResetDraws where
  a : Byte := 0
  x : Byte := 0
  y : Byte := 0
  ir : Byte := 0
  n : Bool := false
  v : Bool := false
  b : Bool := false
  d : Bool := false
  z : Bool := false
  c : Bool := false
  timerN : Byte := 0
  timerInterval : Interval := .i1
  /-- RIOT RAM after reset: its bytes as a canonical cell list. -/
  riotRam : List Host.Cell := []
  /-- On-cart RAM after reset. -/
  cartRam : List Host.Cell := []
  /-- 3E's `ram_bank` after reset, which 20_memory.md R104 does not state. -/
  ramBank3E : Fin 32 := 0
deriving DecidableEq, Repr, Inhabited

/-- The implementation parameters (00_scope.md R6). Defaults the source does not give: assumption log 6. -/
structure Config where
  /-- System cycles per processor cycle; positive. -/
  spc : Nat := 1
  spReset : SpReset := .fd
  underflow : UnderflowRead := .continue1T
  /-- `frame_rate`, positive; default 60 (92 D31). -/
  frameRate : F64 := ⟨60 * 2 ^ 47, -47⟩
  /-- `none`: the default tables of 60_exceptions.md R352. -/
  tables : Option WaveTables := none
  mix : MixRule := .standard
  tiaVideo : TiaVideo := .free
  /-- The `sound` option (60_exceptions.md R349). -/
  sound : Bool := true
  /-- Whether the host sink accepts the format (60_exceptions.md R370). -/
  sinkAccepts : Bool := true
  /-- `host_rate` (`freq`), Hz. -/
  hostRate : Nat := 31440
  /-- `tiafreq`, Hz. -/
  tiaFreq : Nat := 31440
  /-- `fragsize`, a power of two. -/
  fragSize : Nat := 512
  /-- The configured volume (70_reset_and_hazards.md R406). -/
  volume : Fin 101 := 100
  /-- `clipvol`: clamp at 255 rather than wrap (60_exceptions.md R366). -/
  clipVol : Bool := true
  channels : Channels := .mono
  resets : ResetDraws := {}
deriving DecidableEq, Repr, Inhabited

/-- FREE VALUE: the `k`-th free byte of a run. Drawn for TIA peeks (20_memory.md R77), port pins and TIMINT bits 5..0
(60_exceptions.md R323, R327), INTIM after expiry in the `draw` setting (R326), write-port reads (20_memory.md R93), and,
its bits 7, 6, 1, for N, V, Z after a decimal ADC or SBC (41_arith_logic_shift.md R223, R224). No body: nothing constrains
it (assumption log 7). -/
opaque Config.freeByte : Nat → Byte

/-- FREE VALUE: the `k`-th free bit: a stop by the TIA video collaborator (20_memory.md R77), a PA7 edge
(60_exceptions.md R328). -/
opaque Config.freeBit : Nat → Bool

/-- FREE VALUE: system cycles the TIA video collaborator adds in a poke (20_memory.md R77, WSYNC). -/
opaque Config.freeCycles : Nat → U32

/-- FREE VALUE: a mix function other than the default (60_exceptions.md R366, 92 D33): level 0, level 1, volume,
`clipvol`. -/
opaque Config.otherMix : BitVec 4 → BitVec 4 → Fin 101 → Bool → Byte

/-- The byte `sp_reset` stands for. -/
def SpReset.toByte : SpReset → Byte
  | .fd => 0xFD
  | .ff => 0xFF

/-- `timer_shift` (60_exceptions.md R325). -/
def Interval.shift : Interval → Nat
  | .i1 => 0
  | .i8 => 3
  | .i64 => 6
  | .i1024 => 10

/-- `channels` as a number. -/
def Channels.count : Channels → Nat
  | .mono => 1
  | .stereo => 2

/-- The tables have the lengths 92's OPEN parameter list gives. -/
def WaveTables.wf (t : WaveTables) : Bool :=
  t.poly4.length == 15 && t.poly5.length == 31 && t.poly9.length == 511 && t.div31.length == 31

end Sys2Proof
end

