-- ==== Sys2Proof/Machine/F64.lean ====
section
/-! DEFINITION. IEEE-754 binary64 arithmetic, round to nearest even, on `F64` (60_exceptions.md R345, R360 to R362).
Every operation computes the exact value and rounds once. -/

namespace Sys2Proof

/-- Bits of a natural number; 0 for 0. -/
def bitLength (m : Nat) : Nat := if m = 0 then 0 else Nat.log2 m + 1

/-- The nearest integer to `m / 2^k`, ties to even. -/
def roundShift (m k : Nat) : Nat :=
  let q := m / 2 ^ k
  let r := 2 * (m % 2 ^ k)
  if r > 2 ^ k ∨ (r = 2 ^ k ∧ q % 2 = 1) then q + 1 else q

/-- How many low bits of a `len`-bit significand at exponent `e` do not fit: 53 significant bits, exponent at least -1074. -/
def excessBits (len : Nat) (e : Int) : Int := max ((len : Int) - 53) (-1074 - e)

/-- `sign * q * 2^e`, with `q ≤ 2^53`, in canonical form; `q = 2^53` is one binade up. -/
def F64.pack (neg : Bool) (q : Nat) (e : Int) : F64 :=
  if q = 0 then ⟨0, 0⟩
  else
    let p : Nat × Int := if q = 2 ^ 53 then (2 ^ 52, e + 1) else (q, e)
    ⟨if neg then -(p.1 : Int) else (p.1 : Int), p.2⟩

/-- `± m * 2^e`, rounded. -/
def F64.round (neg : Bool) (m : Nat) (e : Int) : F64 :=
  let k := excessBits (bitLength m) e
  if 0 < k then F64.pack neg (roundShift m k.toNat) (e + k) else F64.pack neg (m * 2 ^ (-k).toNat) (e + k)

/-- `n * 2^e` of an integer, rounded. -/
def F64.ofInt (n : Int) (e : Int) : F64 := F64.round (decide (n < 0)) n.natAbs e

/-- A natural number as binary64. -/
def F64.ofNat (n : Nat) : F64 := F64.ofInt n 0

/-- `± (n / d) * 2^e`, rounded: the quotient to at least 54 bits with a sticky bit below it. -/
def F64.ofRatio (neg : Bool) (n d : Nat) (e : Int) : F64 :=
  let k := 55 + bitLength d - bitLength n
  let n' := n * 2 ^ k
  let sticky := if n' % d = 0 then 0 else 1
  F64.round neg (2 * (n' / d) + sticky) (e - k - 1)

/-- The exact sum of `a` and `b` as an integer at exponent `min a.exp b.exp`. -/
def F64.alignedSum (a b : F64) : Int × Int :=
  let e := min a.exp b.exp
  (a.sig * 2 ^ (a.exp - e).toNat + b.sig * 2 ^ (b.exp - e).toNat, e)

def F64.neg (a : F64) : F64 := ⟨-a.sig, a.exp⟩

def F64.add (a b : F64) : F64 :=
  let s := F64.alignedSum a b
  F64.ofInt s.1 s.2

def F64.sub (a b : F64) : F64 := F64.add a b.neg

def F64.mul (a b : F64) : F64 := F64.ofInt (a.sig * b.sig) (a.exp + b.exp)

/-- Division; the divisor is not zero wherever the model divides. -/
def F64.div (a b : F64) : F64 :=
  F64.ofRatio (decide (a.sig < 0) != decide (b.sig < 0)) a.sig.natAbs b.sig.natAbs (a.exp - b.exp)

/-- `a ≤ b`, exactly. -/
def F64.le (a b : F64) : Bool := decide ((F64.alignedSum a b.neg).1 ≤ 0)

/-- `a < b`, exactly. -/
def F64.lt (a b : F64) : Bool := decide ((F64.alignedSum a b.neg).1 < 0)

/-- The mathematical floor. -/
def F64.floor (a : F64) : Int := if 0 ≤ a.exp then a.sig * 2 ^ a.exp.toNat else a.sig / 2 ^ (-a.exp).toNat

def F64.zero : F64 := ⟨0, 0⟩

/-- The canonical form of `F64`. -/
def F64.wf (a : F64) : Bool :=
  if a.sig = 0 then a.exp == 0
  else decide (a.sig.natAbs < 2 ^ 53) && decide (-1074 ≤ a.exp) && (decide (2 ^ 52 ≤ a.sig.natAbs) || a.exp == -1074)

/-- `cpu_clock_hz = 1193191.666` as binary64 (00_scope.md R6, 60_exceptions.md R345). -/
def cpuClockHz : F64 := F64.ofRatio false 1193191666 1000 0

end Sys2Proof
end

