-- ==== Sys2Proof/Machine/State.lean ====
section
/-! DEFINITION. The machine's state as plain data (10_state.md), the reasons a step can stop, and the state after reset
(70_reset_and_hazards.md R403). -/

namespace Sys2Proof.Machine

/-- A byte store: (index, byte) pairs, indexes strictly rising, no byte equal to what an unlisted index reads as
(`Memory.wf`; assumption log 4). -/
abbrev Memory := List Host.Cell

/-- The seven status flags (10_state.md R25). -/
structure Flags where
  n : Bool
  v : Bool
  b : Bool
  d : Bool
  i : Bool
  z : Bool
  c : Bool
deriving DecidableEq, Repr, Inhabited

/-- `execution_status` (10_state.md R29): StopExecution, FatalError, MaskableInterrupt, NonmaskableInterrupt. -/
structure ExecStatus where
  stop : Bool
  fatal : Bool
  irq : Bool
  nmi : Bool
deriving DecidableEq, Repr, Inhabited

/-- The devices a page can belong to (10_state.md R33, R34). -/
inductive DeviceId where
  | riot
  | tia
  | cart
  | null
deriving DecidableEq, Repr, Inhabited

/-- The backing stores a direct page pointer can name (10_state.md R33). -/
inductive Store where
  | riotRam
  | cartRam
  | cartRom
deriving DecidableEq, Repr, Inhabited

/-- One byte of a backing store. -/
structure Loc where
  store : Store
  index : Nat
deriving DecidableEq, Repr, Inhabited

/-- One entry of the page table (10_state.md R33). -/
structure PageAccess where
  directPeek : Option Loc
  directPoke : Option Loc
  device : DeviceId
deriving DecidableEq, Repr, Inhabited

/-- The cartridge variants (00_scope.md R1(c), 20_memory.md R125). -/
inductive CartVariant where
  | c2K | c4K | f8 | f6 | f4 | f8sc | f6sc | f4sc | c3F | c3E | e0 | e7 | ua | cv | fe
deriving DecidableEq, Repr, Inhabited

/-- Cartridge state (10_state.md R35 and 20_memory.md R96 to R123). A register a variant does not have stays at its
reset value. -/
structure Cart where
  variant : CartVariant
  romSize : Nat
  rom : Memory
  /-- The ROM hash string of the save stream (70_reset_and_hazards.md R442), given at attach. -/
  romKey : List Byte
  ram : Memory
  /-- `current_bank`; E0's `slot_bank[0]` and E7's `low_bank` are this register (R105, R106). -/
  currentBank : Nat
  /-- E0 `slot_bank[1]`. -/
  slot1 : Nat
  /-- E0 `slot_bank[2]`. -/
  slot2 : Nat
  /-- `ram_bank` of 3E (R104) or E7 (R106). -/
  ramBank : Nat
  /-- 3E `ram_selected`. -/
  ramSelected : Bool
  /-- FE `fe_armed`. -/
  feArmed : Bool
  bankLocked : Bool
deriving DecidableEq, Repr, Inhabited

/-- RIOT state (10_state.md R36). -/
structure Riot where
  ram : Memory
  dra : Byte
  ddra : Byte
  drb : Byte
  ddrb : Byte
  timerN : Byte
  timerInterval : Interval
  timerSetCycle : U32
  timerFlagCleared : Bool
  timerIrqEn : Bool
  pa7IrqEn : Bool
  pa7EdgePos : Bool
  pa7Flag : Bool
deriving DecidableEq, Repr, Inhabited

/-- One synthesizer channel (10_state.md R37). -/
structure Channel where
  audc : BitVec 4
  audf : BitVec 5
  audv : BitVec 4
  divCnt : BitVec 16
  divMax : BitVec 16
  div3Cnt : BitVec 2
  p4 : Fin 15
  p5 : Fin 31
  p9 : Fin 511
  out : Bool
deriving DecidableEq, Repr, Inhabited

/-- An entry of the audio write queue (60_exceptions.md R346): `delta` seconds since the previous write. -/
structure QueueEntry where
  addr : Byte
  value : Byte
  delta : F64
deriving DecidableEq, Repr, Inhabited

/-- A callback the sink will ask for (20_memory.md R82, 60_exceptions.md R372): how many sound-register writes the emulation
thread makes after the previous request is served (for the first one, from now on) and before this callback takes the
mutex, and the length of its fragment. -/
structure CallbackRequest where
  writes : Nat
  length : Nat
deriving DecidableEq, Repr, Inhabited

/-- TIA audio state (10_state.md R37). -/
structure Audio where
  ch0 : Channel
  ch1 : Channel
  outputCounter : U32
  /-- Head first (60_exceptions.md R346). -/
  queue : List QueueEntry
  /-- `last_register_set_cycle`. -/
  lastSetCycle : U32
  volume : Fin 101
  muted : Bool
  /-- The model's own: the schedule between the two agents, as a list of callbacks to come (assumption log 19). -/
  requests : List CallbackRequest
  /-- The model's own: fragments of callbacks that ran between two sound writes of one run, oldest first, until the host
  takes them (assumption log 19). -/
  fragments : List (List Byte)
deriving DecidableEq, Repr, Inhabited

/-- Everything but the CPU's registers: the bus (10_state.md R29 to R34), the devices (R35 to R37), the configuration, and
the model's own counter of free values drawn (assumption log 7). -/
structure System where
  cycles : U32
  dataBus : Byte
  dataBusLocked : Bool
  status : ExecStatus
  devices : List DeviceId
  riot : Riot
  cart : Cart
  audio : Audio
  cfg : Config
  draws : Nat
deriving DecidableEq, Repr, Inhabited

/-- The whole machine: the CPU's registers (10_state.md R20 to R26) and the system. -/
structure State where
  a : Byte
  x : Byte
  y : Byte
  sp : Byte
  pc : Word
  ir : Byte
  flags : Flags
  instructionCount : U32
  lastAccessWasRead : Bool
  sys : System
deriving DecidableEq, Repr, Inhabited

/-- Why the machine stops. -/
inductive Fault where
  /-- Raised by `step` when FatalError is already set: `execute` "returns false immediately without fetching"
  (60_exceptions.md R304); the machine runs nothing until a reset or a load. Safe: the hardware does not go on either. -/
  | fatalErrorHalt
deriving DecidableEq, Repr, Inhabited

/-- Why an instruction has no meaning. -/
inductive Refusal where
  /-- Raised by an arm of `exec` whose instruction has no meaning yet. Safe. No arm raises it. -/
  | notModelled (mnemonic : String)
deriving DecidableEq, Repr, Inhabited

/-! ## Reset values -/

/-- A channel after reset (60_exceptions.md R367). -/
def Channel.reset : Channel :=
  { audc := 0, audf := 0, audv := 0, divCnt := 0, divMax := 0, div3Cnt := 3, p4 := 0, p5 := 0, p9 := 0, out := false }

/-- A blank 4K cartridge at its reset bank (20_memory.md R97; DESIGN CHOICE, assumption log 5). -/
def Cart.blank4K : Cart :=
  { variant := .c4K, romSize := 4096, rom := [], romKey := [], ram := [], currentBank := 0, slot1 := 5, slot2 := 6,
    ramBank := 0, ramSelected := false, feArmed := false, bankLocked := false }

/-- The machine right after power-up's reset (70_reset_and_hazards.md R403, R406): RIOT, TIA and a blank 4K cartridge
attached (R65), every draw at the value assumption logs 1 to 4 name. PC is the word the blank image holds at the reset
vector. -/
def State.reset : State :=
  { a := 0
    x := 0
    y := 0
    sp := 0xFD
    pc := 0x0000
    ir := 0
    flags := { n := false, v := false, b := false, d := false, i := true, z := false, c := false }
    instructionCount := 0
    lastAccessWasRead := true
    sys :=
      { cycles := 0
        dataBus := 0
        dataBusLocked := false
        status := { stop := false, fatal := false, irq := false, nmi := false }
        devices := [.riot, .tia, .cart]
        riot :=
          { ram := [], dra := 0, ddra := 0, drb := 0, ddrb := 0, timerN := 0, timerInterval := .i1, timerSetCycle := 0,
            timerFlagCleared := false, timerIrqEn := false, pa7IrqEn := false, pa7EdgePos := false, pa7Flag := false }
        cart := Cart.blank4K
        audio :=
          { ch0 := Channel.reset, ch1 := Channel.reset, outputCounter := 0, queue := [], lastSetCycle := 0, volume := 100,
            muted := false, requests := [], fragments := [] }
        cfg := {}
        draws := 0 } }

end Sys2Proof.Machine
end

