-- ==== Sys2Proof/Machine/AudioEngine.lean ====
section
/-! DEFINITION. The TIA audio engine: the write path and queue, the synthesizer, the fragment callback, mute, volume and
reset (60_exceptions.md R340 to R372). Each function is one whole critical section of the mutex (20_memory.md R82). -/

namespace Sys2Proof.Machine

/-! ## Waveform tables (R352) -/

/-- `n` outputs of the shift register of `poly_init(size, f0, f1)` in state `x`. -/
def polyBits (size f0 f1 : Nat) : Nat → Nat → List Bool
  | 0, _ => []
  | n + 1, x =>
    let b := (x >>> (size - f0) ^^^ x >>> (size - f1)) % 2
    (x % 2 == 1) :: polyBits size f0 f1 n (x >>> 1 ||| b <<< (size - 1))

/-- `poly_init(size, f0, f1)`. -/
def polyInit (size f0 f1 : Nat) : List Bool := polyBits size f0 f1 (2 ^ size - 1) (2 ^ size - 1)

/-- The default tables; `div31_seq` is 1 at indices 0 and 18. -/
def defaultTables : WaveTables :=
  { poly4 := polyInit 4 4 3
    poly5 := polyInit 5 5 3
    poly9 := polyInit 9 9 5
    div31 := (List.range 31).map fun i => i == 0 || i == 18 }

/-- The tables of a configuration. -/
def waveTables (cfg : Config) : WaveTables := cfg.tables.getD defaultTables

/-- Entry `i` of a table. -/
def seqAt (l : List Bool) (i : Nat) : Bool := l.getD i false

/-! ## Register writes (R340, R342) -/

/-- `div_max` for AUDC = `m` and AUDF = `f`: 0 for the constant modes, else AUDF + 1, times 3 in modes 12 to 14. -/
def dividerPeriod (m : BitVec 4) (f : BitVec 5) : BitVec 16 :=
  if m = 0 ∨ m = 11 then 0
  else
    let p := f.setWidth 16 + 1
    if m &&& 0x0C = 0x0C ∧ m ≠ 15 then p * 3 else p

/-- The divider update after a register write. -/
def Channel.redivide (ch : Channel) : Channel :=
  let p := dividerPeriod ch.audc ch.audf
  if p = ch.divMax then ch
  else { ch with divMax := p, divCnt := if ch.divCnt = 0 ∨ p = 0 then p else ch.divCnt }

/-- Which channel register a TIA register is (R340): AUDC, AUDF or AUDV. -/
inductive SoundReg where
  | audc | audf | audv
deriving DecidableEq, Repr, Inhabited

/-- Store the masked value in a channel's register, then update its divider. -/
def Channel.setReg (r : SoundReg) (v : Byte) (ch : Channel) : Channel :=
  match r with
  | .audc => ({ ch with audc := v.setWidth 4 } : Channel).redivide
  | .audf => ({ ch with audf := v.setWidth 5 } : Channel).redivide
  | .audv => ({ ch with audv := v.setWidth 4 } : Channel).redivide

/-- `synth_set(r, v)` for TIA register `r`; a register outside $15..$1A is none of the six. -/
def Audio.synthSet (r v : Byte) (au : Audio) : Audio :=
  match r.toNat with
  | 0x15 => { au with ch0 := au.ch0.setReg .audc v }
  | 0x16 => { au with ch1 := au.ch1.setReg .audc v }
  | 0x17 => { au with ch0 := au.ch0.setReg .audf v }
  | 0x18 => { au with ch1 := au.ch1.setReg .audf v }
  | 0x19 => { au with ch0 := au.ch0.setReg .audv v }
  | 0x1A => { au with ch1 := au.ch1.setReg .audv v }
  | _ => au

/-! ## The write queue (R345, R346) -/

/-- The six sound registers (R340). -/
def isSoundReg (r : Byte) : Bool := decide (0x15 ≤ r.toNat) && decide (r.toNat ≤ 0x1A)

/-- "samples/freq ≥ 0.25": the fragment ratio is unusable (R370). -/
def fragmentUnusable (cfg : Config) : Bool := decide (cfg.hostRate ≤ 4 * cfg.fragSize)

/-- Sound is enabled: the option is set and the sink opened (R349, R370). -/
def soundEnabled (cfg : Config) : Bool := cfg.sound && cfg.sinkAccepts && !fragmentUnusable cfg

/-- The delta of a write at cycle `t`: seconds since the previous write, times the identity `frame_rate / frame_rate`
(R345). -/
def writeDelta (cfg : Config) (t last : U32) : F64 :=
  F64.mul (F64.div (F64.ofNat (t - last).toNat) cpuClockHz) (F64.div cfg.frameRate cfg.frameRate)

/-- What `set(r, v, t)` does under the mutex (R345). -/
def Audio.enqueue (cfg : Config) (r v : Byte) (t : U32) (au : Audio) : Audio :=
  { au with
    queue := au.queue ++ [{ addr := r, value := v, delta := writeDelta cfg t au.lastSetCycle }]
    lastSetCycle := t }

/-- `duration()`: the deltas summed in enqueue order (R346). -/
def queueDuration (q : List QueueEntry) : F64 := q.foldl (fun d e => F64.add d e.delta) F64.zero

/-! ## Synthesis (R350 to R356) -/

/-- A divider underflow with `poly5_seq[p5]` changed or not: what the waveform clock does (R351, from `clock` on). -/
def Channel.clocked (t : WaveTables) (changed : Bool) (ch : Channel) : Channel :=
  let m := ch.audc
  if m.getLsbD 2 then
    (if m = 15 then
      (if changed then
        (if ch.div3Cnt - 1 = 0 then { ch with div3Cnt := 3, out := !ch.out } else { ch with div3Cnt := ch.div3Cnt - 1 })
       else ch)
     else { ch with out := !ch.out })
  else if m.getLsbD 3 then
    (if m = 8 then
      let p := ch.p9 + 1
      { ch with p9 := p, out := seqAt t.poly9 p }
     else if m.getLsbD 1 then { ch with out := !ch.out }
     else { ch with out := seqAt t.poly5 ch.p5 })
  else
    let p := ch.p4 + 1
    { ch with p4 := p, out := seqAt t.poly4 p }

/-- The waveform clock's condition after `p5` advanced (R351). -/
def Channel.clocks (t : WaveTables) (changed : Bool) (ch : Channel) : Bool :=
  !ch.audc.getLsbD 1
    || (!ch.audc.getLsbD 0 && seqAt t.div31 ch.p5)
    || (ch.audc.getLsbD 0 && seqAt t.poly5 ch.p5)
    || (ch.audc == 15 && changed)

/-- `channel_tick` (R351). -/
def Channel.tick (t : WaveTables) (ch : Channel) : Channel :=
  if 1 < ch.divCnt.toNat then { ch with divCnt := ch.divCnt - 1 }
  else if ch.divCnt = 1 then
    let prev := seqAt t.poly5 ch.p5
    let ch : Channel := { ch with divCnt := ch.divMax, p5 := ch.p5 + 1 }
    let changed := seqAt t.poly5 ch.p5 != prev
    if ch.clocks t changed then ch.clocked t changed else ch
  else ch

/-- `level[c]` (R353). -/
def Channel.level (ch : Channel) : BitVec 4 :=
  if ch.audc = 0 ∨ ch.audc = 11 then ch.audv else if ch.out then ch.audv else 0

/-- The default `mix` (R366). -/
def mixStandard (l0 l1 : BitVec 4) (volume : Fin 101) (clip : Bool) : Byte :=
  let raw := (l0.toNat * 16 + l1.toNat * 16) * volume.val / 100
  BitVec.ofNat 8 (if clip then min raw 255 else raw)

/-- The `mix` of a configuration (R366, 92 D33). -/
def mixOf (cfg : Config) : BitVec 4 → BitVec 4 → Fin 101 → Bool → Byte :=
  match cfg.mix with
  | .standard => mixStandard
  | .other => Config.otherMix

/-- `tick()`: channel 0, then channel 1 (R350). -/
def Audio.tick (cfg : Config) (au : Audio) : Audio :=
  { au with ch0 := au.ch0.tick (waveTables cfg), ch1 := au.ch1.tick (waveTables cfg) }

/-- `emit` of one sample: once per channel of the sink (R356). -/
def Audio.sample (cfg : Config) (au : Audio) : List Byte :=
  List.replicate cfg.channels.count (mixOf cfg au.ch0.level au.ch1.level au.volume cfg.clipVol)

/-- The inner loop of `process`: at most `k` samples while `output_counter ≥ tiafreq`; answers how many of `k` are left. -/
def Audio.emitReady (cfg : Config) : Nat → Audio → Nat × List Byte × Audio
  | 0, au => (0, [], au)
  | k + 1, au =>
    if cfg.tiaFreq ≤ au.outputCounter.toNat then
      let r := Audio.emitReady cfg k { au with outputCounter := au.outputCounter - BitVec.ofNat 32 cfg.tiaFreq }
      (r.1, au.sample cfg ++ r.2.1, r.2.2)
    else (k + 1, [], au)

/-- The outer loop of `process`, for at most `fuel` ticks. -/
def Audio.processLoop (cfg : Config) : Nat → Nat → Audio → List Byte × Audio
  | 0, _, au => ([], au)
  | fuel + 1, k, au =>
    if k = 0 then ([], au)
    else
      let au := au.tick cfg
      let au := { au with outputCounter := au.outputCounter + BitVec.ofNat 32 cfg.hostRate }
      let r := Audio.emitReady cfg k au
      let r' := Audio.processLoop cfg fuel r.1 r.2.2
      (r.2.1 ++ r'.1, r'.2)

/-- Ticks that suffice for `k` samples: each adds `host_rate`, each sample takes `tiafreq`, and the counter can wrap once,
at the first tick (assumption log 31). -/
def processFuel (cfg : Config) (k : Nat) : Nat := k * (cfg.tiaFreq / cfg.hostRate + 1) + 1

/-- `process(k)` (R355). -/
def Audio.process (cfg : Config) (k : Nat) (au : Audio) : List Byte × Audio :=
  Audio.processLoop cfg (processFuel cfg k) k au

/-! ## The fragment callback (R360 to R363) -/

/-- `fragment_log2` (00_scope.md R6). -/
def fragmentLog2 (cfg : Config) : Nat := Nat.log2 cfg.fragSize

/-- `n / frame_rate`. -/
def framesToSeconds (cfg : Config) (n : Int) : F64 := F64.div (F64.ofInt n 0) cfg.frameRate

/-- The drain's inner loop: apply heads while the queue lasts longer than `(fragment_log2 - 1) / frame_rate` (R362). -/
def Audio.drainTo (bound : F64) : List QueueEntry → Audio → Audio
  | [], au => { au with queue := [] }
  | e :: q, au =>
    if F64.lt bound (queueDuration (e :: q)) then Audio.drainTo bound q (au.synthSet e.addr e.value)
    else { au with queue := e :: q }

/-- `drain()` (R362). -/
def Audio.drain (cfg : Config) (au : Audio) : Audio :=
  if F64.lt (framesToSeconds cfg (fragmentLog2 cfg)) (queueDuration au.queue) then
    Audio.drainTo (framesToSeconds cfg ((fragmentLog2 cfg : Int) - 1)) au.queue au
  else au

/-- The samples of a segment: `floor(position + s) - floor(position)`, at most what the fragment still needs (R360, R361). -/
def segmentSamples (position s : F64) (left : Nat) : Nat :=
  min (F64.floor (F64.add position s) - F64.floor position).toNat left

/-- The callback's loop over the queue `q` (R360): `position` samples produced so far as a real, `remaining` samples still
to produce as a real, `left` = `length - produced`. -/
def Audio.fragment (cfg : Config) : List QueueEntry → F64 → F64 → Nat → Audio → List Byte × Audio
  | [], _, _, left, au =>
    let r := au.process cfg left
    (r.1, { r.2 with queue := [], lastSetCycle := 0 })
  | e :: q, position, remaining, left, au =>
    let duration := F64.div remaining (F64.ofNat cfg.hostRate)
    if F64.le e.delta duration then
      if F64.lt F64.zero e.delta then
        let s := F64.mul (F64.ofNat cfg.hostRate) e.delta
        let k := segmentSamples position s left
        let r := au.process cfg k
        let r' := Audio.fragment cfg q (F64.add position s) (F64.sub remaining s) (left - k)
          (r.2.synthSet e.addr e.value)
        (r.1 ++ r'.1, r'.2)
      else Audio.fragment cfg q position remaining left (au.synthSet e.addr e.value)
    else
      let r := au.process cfg left
      (r.1, { r.2 with queue := { e with delta := F64.sub e.delta duration } :: q })

/-- `callback(length)` while sound is enabled and not muted: the fragment's bytes and the state it leaves (R360). -/
def Audio.callback (cfg : Config) (length : Nat) (au : Audio) : List Byte × Audio :=
  let au := au.drain cfg
  Audio.fragment cfg au.queue F64.zero (F64.ofNat length) length au

/-! ## The schedule between the two agents (20_memory.md R82; R372, R375) -/

/-- A callback that runs while the emulation thread is between two sections of the mutex: nothing while muted (R365); else
its fragment goes to the sink. -/
def Audio.serve (cfg : Config) (length : Nat) (au : Audio) : Audio :=
  if au.muted then au
  else
    let r := au.callback cfg length
    { r.2 with fragments := au.fragments ++ [r.1] }

/-- The callbacks that take the mutex before the sound write about to be made, in their order; the next request then waits
for one write less. -/
def Audio.serveDue (cfg : Config) : List CallbackRequest → Audio → Audio
  | [], au => { au with requests := [] }
  | r :: rs, au =>
    if r.writes = 0 then Audio.serveDue cfg rs (au.serve cfg r.length)
    else { au with requests := { r with writes := r.writes - 1 } :: rs }

/-- `set(r, v, t)`: the callbacks due before it, then its own section of the mutex (R345, 20_memory.md R82); inert when sound
is disabled (R349). -/
def Audio.set (cfg : Config) (r v : Byte) (t : U32) (au : Audio) : Audio :=
  if soundEnabled cfg then (au.serveDue cfg au.requests).enqueue cfg r v t else au

/-! ## Mute, volume, reset (R365, R367, R368, R348) -/

/-- Mute clears the queue; unmute resumes (R365). -/
def Audio.setMuted (b : Bool) (au : Audio) : Audio :=
  if b then { au with queue := [], muted := true } else { au with muted := false }

/-- An integer clamped to 0..100 (R368). -/
def clampVolume (p : Int) : Fin 101 := Fin.ofNat 101 (min p.toNat 100)

/-- `setVolume(p)` (R368). -/
def Audio.setVolume (p : Int) (au : Audio) : Audio := { au with volume := clampVolume p }

/-- Audio reset (R367): queue, stamp and synthesizer; volume and mute unchanged, and the sink's schedule too. -/
def Audio.reset (au : Audio) : Audio :=
  { au with ch0 := Channel.reset, ch1 := Channel.reset, outputCounter := 0, queue := [], lastSetCycle := 0 }

/-- Audio `systemCyclesReset()` with `c` the value of `cycles` (R348). -/
def Audio.systemCyclesReset (c : U32) (au : Audio) : Audio := { au with lastSetCycle := au.lastSetCycle - c }

/-! ## Legal audio state -/

/-- The divider's period is that of the registers, and the count of mode 15 is 1..3. -/
def Channel.wf (ch : Channel) : Bool := ch.divMax == dividerPeriod ch.audc ch.audf && ch.div3Cnt != 0

/-- A queue entry names a sound register (R346). -/
def QueueEntry.wf (e : QueueEntry) : Bool := isSoundReg e.addr

/-- Legal audio state. -/
def Audio.wf (au : Audio) : Bool := au.ch0.wf && au.ch1.wf && au.queue.all QueueEntry.wf

end Sys2Proof.Machine
end

