-- ==== Sys2Proof/Machine/Memory.lean ====
section
/-! DEFINITION. Byte stores in canonical form: reading, writing, well-formedness. -/

namespace Sys2Proof.Machine

/-- What an unlisted byte reads as. DESIGN CHOICE (assumption log 4): the spec draws RAM content (92 D18). -/
def Memory.fill : Byte := 0

/-- The byte at index `k`. -/
def Memory.read : Memory → Nat → Byte
  | [], _ => Memory.fill
  | (i, v) :: m, k => if i = k then v else Memory.read m k

/-- The store with byte `k` set to `v`; writing the fill byte removes the entry. -/
def Memory.write : Memory → Nat → Byte → Memory
  | [], k, v => if v = Memory.fill then [] else [(k, v)]
  | (i, w) :: m, k, v =>
    if k < i then (if v = Memory.fill then (i, w) :: m else (k, v) :: (i, w) :: m)
    else if k = i then (if v = Memory.fill then m else (k, v) :: m)
    else (i, w) :: Memory.write m k v

/-- Strictly rising from `lo`, no fill byte listed, every index below `size`. -/
def Memory.wfFrom (size : Nat) : Nat → Memory → Bool
  | _, [] => true
  | lo, (i, v) :: m => decide (lo ≤ i) && decide (i < size) && v != Memory.fill && Memory.wfFrom size (i + 1) m

/-- The canonical form of a store of `size` bytes. -/
def Memory.wf (size : Nat) (m : Memory) : Bool := Memory.wfFrom size 0 m

end Sys2Proof.Machine
end

