-- ==== Sys2Proof/Machine/Cartridge.lean ====
section
/-! DEFINITION. The cartridges: bank registers, hotspots, the mapping of the window and the reset of every variant
(20_memory.md R90 to R125). `o` is the offset in the cartridge window, `a & 0x0FFF`. Bus traffic is in Machine/Bus.lean. -/

namespace Sys2Proof.Machine

/-- `bank_count` (20_memory.md R96 to R109). E0 and E7 have eight banks; a variant without switching has one. -/
def Cart.bankCount (c : Cart) : Nat :=
  match c.variant with
  | .c2K => 1
  | .c4K => 1
  | .f8 => 2
  | .f6 => 4
  | .f4 => 8
  | .f8sc => 2
  | .f6sc => 4
  | .f4sc => 8
  | .c3F => c.romSize / 2048
  | .c3E => c.romSize / 2048
  | .e0 => 8
  | .e7 => 8
  | .ua => 2
  | .cv => 1
  | .fe => 2

/-- Bytes of on-cart RAM (20_memory.md R101, R104, R106, R108). E7's 1 KB block is indexes 0 to 1023 and its four
256-byte blocks follow it. -/
def CartVariant.ramSize : CartVariant → Nat
  | .c2K => 0
  | .c4K => 0
  | .f8 => 0
  | .f6 => 0
  | .f4 => 0
  | .f8sc => 128
  | .f6sc => 128
  | .f4sc => 128
  | .c3F => 0
  | .c3E => 32768
  | .e0 => 0
  | .e7 => 2048
  | .ua => 0
  | .cv => 1024
  | .fe => 0

/-- How many values `ramBank` takes: 32 on 3E (R104), 4 on E7 (R106). -/
def CartVariant.ramBanks : CartVariant → Nat
  | .c3E => 32
  | .e7 => 4
  | _ => 1

/-- The image sizes a variant allows (20_memory.md R96 to R109). -/
def CartVariant.sizeOk (v : CartVariant) (size : Nat) : Bool :=
  match v with
  | .c2K => size == 2048
  | .c4K => size == 4096
  | .f8 => size == 8192
  | .f6 => size == 16384
  | .f4 => size == 32768
  | .f8sc => size == 8192
  | .f6sc => size == 16384
  | .f4sc => size == 32768
  | .c3F => size % 2048 == 0 && decide (0 < size) && decide (size ≤ 524288)
  | .c3E => size % 2048 == 0 && decide (0 < size) && decide (size ≤ 524288)
  | .e0 => size == 8192
  | .e7 => size == 16384
  | .ua => size == 8192
  | .cv => size == 2048
  | .fe => size == 8192

/-! ## Bank registers (20_memory.md R91) -/

/-- A change of a bank register: nothing while `bank_locked`. -/
def Cart.switch (c : Cart) (f : Cart → Cart) : Cart := if c.bankLocked then c else f c

/-- `bank(b)`. -/
def Cart.bank (b : Nat) (c : Cart) : Cart := c.switch fun c => { c with currentBank := b % c.bankCount }

/-- E0 `slot_bank[1] <- b` (R105). -/
def Cart.selectSlot1 (b : Nat) (c : Cart) : Cart := c.switch fun c => { c with slot1 := b % 8 }

/-- E0 `slot_bank[2] <- b` (R105). -/
def Cart.selectSlot2 (b : Nat) (c : Cart) : Cart := c.switch fun c => { c with slot2 := b % 8 }

/-- E7 `ram_bank <- b` (R106). -/
def Cart.selectRamBank (b : Nat) (c : Cart) : Cart := c.switch fun c => { c with ramBank := b % c.variant.ramBanks }

/-- 3E, a poke of $003F: `bank(v)` and the RAM deselected (R104; both locked, R91 and assumption log 22). -/
def Cart.select3ERom (v : Byte) (c : Cart) : Cart :=
  c.switch fun c => { c with currentBank := v.toNat % c.bankCount, ramSelected := false }

/-- 3E, a poke of $003E: `ram_bank <- v mod 32`, the RAM selected (R104). -/
def Cart.select3ERam (v : Byte) (c : Cart) : Cart :=
  c.switch fun c => { c with ramBank := v.toNat % 32, ramSelected := true }

/-! ## Hotspots (20_memory.md R92) -/

/-- An F-series hotspot range: `first ≤ o < first + bank_count` does `bank(o - first)` (R98 to R101). -/
def Cart.rangeHotspot (first o : Nat) (c : Cart) : Cart :=
  if first ≤ o ∧ o < first + c.bankCount then c.bank (o - first) else c

/-- E0's three hotspot groups (R105). -/
def Cart.e0Hotspot (o : Nat) (c : Cart) : Cart :=
  if 0xFE0 ≤ o ∧ o < 0xFE8 then c.bank (o - 0xFE0)
  else if 0xFE8 ≤ o ∧ o < 0xFF0 then c.selectSlot1 (o - 0xFE8)
  else if 0xFF0 ≤ o ∧ o < 0xFF8 then c.selectSlot2 (o - 0xFF0)
  else c

/-- E7's hotspots (R106): `low_bank` by $FE0 to $FE7, `ram_bank` by $FE8 to $FEB. -/
def Cart.e7Hotspot (o : Nat) (c : Cart) : Cart :=
  if 0xFE0 ≤ o ∧ o < 0xFE8 then c.bank (o - 0xFE0)
  else if 0xFE8 ≤ o ∧ o < 0xFEC then c.selectRamBank (o - 0xFE8)
  else c

/-- The effect a peek or poke of window offset `o` has on the bank state, before the access is served (R92). -/
def Cart.hotspot (o : Nat) (c : Cart) : Cart :=
  match c.variant with
  | .c2K => c
  | .c4K => c
  | .f8 => c.rangeHotspot 0xFF8 o
  | .f6 => c.rangeHotspot 0xFF6 o
  | .f4 => c.rangeHotspot 0xFF4 o
  | .f8sc => c.rangeHotspot 0xFF8 o
  | .f6sc => c.rangeHotspot 0xFF6 o
  | .f4sc => c.rangeHotspot 0xFF4 o
  | .c3F => c
  | .c3E => c
  | .e0 => c.e0Hotspot o
  | .e7 => c.e7Hotspot o
  | .ua => c
  | .cv => c
  | .fe => c

/-- The hotspots of a variant lie in the window's last page, or there are none (R98 to R109). -/
def CartVariant.hasHotspots : CartVariant → Bool
  | .c2K => false
  | .c4K => false
  | .f8 => true
  | .f6 => true
  | .f4 => true
  | .f8sc => true
  | .f6sc => true
  | .f4sc => true
  | .c3F => false
  | .c3E => false
  | .e0 => true
  | .e7 => true
  | .ua => false
  | .cv => false
  | .fe => false

/-- UA's switch, on an access to 13-bit address `a` of its trapped pages (R107). -/
def Cart.uaHotspot (a : BusAddr) (c : Cart) : Cart :=
  if a &&& 0x1260 = 0x0220 then c.bank 0
  else if a &&& 0x1260 = 0x0240 then c.bank 1
  else c

/-- The switch of 3F or 3E on a poke of `v` to `a ∈ $0000..$003F` (R103, R104). -/
def Cart.trapPoke (a : BusAddr) (v : Byte) (c : Cart) : Cart :=
  match c.variant with
  | .c3F => c.bank v.toNat
  | .c3E => if a = 0x003F then c.select3ERom v else if a = 0x003E then c.select3ERam v else c
  | _ => c

/-- FE: what a completed access to `a` with data `d` does (R123). -/
def Cart.feAccess (a : BusAddr) (d : Byte) (c : Cart) : Cart :=
  let c := if c.feArmed then ({ c with feArmed := false }).bank (if d.getLsbD 5 then 0 else 1) else c
  if a = 0x01FE then { c with feArmed := true } else c

/-! ## The window's mapping (20_memory.md R90) -/

/-- What a window offset names: a ROM byte, or a RAM byte through its read or its write port. -/
inductive Cell where
  | rom (k : Nat)
  | ramRead (k : Nat)
  | ramWrite (k : Nat)
deriving DecidableEq, Repr, Inhabited

/-- A 4 KB bank (R98 to R100, R107, R109). -/
def Cart.cell4K (c : Cart) (o : Nat) : Cell := .rom (c.currentBank * 4096 + o)

/-- A 4 KB bank under SuperChip RAM (R101). -/
def Cart.cellSC (c : Cart) (o : Nat) : Cell :=
  if o < 0x080 then .ramWrite (o % 0x80) else if o < 0x100 then .ramRead (o % 0x80) else c.cell4K o

/-- 3F: a selectable low 2 KB, the last slice above it (R102). -/
def Cart.cell3F (c : Cart) (o : Nat) : Cell :=
  if o < 0x800 then .rom (c.currentBank * 2048 + o) else .rom ((c.bankCount - 1) * 2048 + o % 0x800)

/-- 3E (R104). -/
def Cart.cell3E (c : Cart) (o : Nat) : Cell :=
  if c.ramSelected ∧ o < 0x400 then .ramRead (c.ramBank * 1024 + o % 0x400)
  else if c.ramSelected ∧ o < 0x800 then .ramWrite (c.ramBank * 1024 + o % 0x400)
  else c.cell3F o

/-- E0 `slot_bank[s]` (R105). -/
def Cart.slotBank (c : Cart) (s : Nat) : Nat :=
  if s = 0 then c.currentBank else if s = 1 then c.slot1 else if s = 2 then c.slot2 else 7

/-- E7 (R106). -/
def Cart.cellE7 (c : Cart) (o : Nat) : Cell :=
  if o < 0x800 then
    (if c.currentBank < 7 then .rom (c.currentBank * 2048 + o)
     else if o < 0x400 then .ramWrite (o % 0x400)
     else .ramRead (o % 0x400))
  else if o < 0x900 then .ramWrite (1024 + c.ramBank * 256 + o % 0x100)
  else if o < 0xA00 then .ramRead (1024 + c.ramBank * 256 + o % 0x100)
  else .rom (7 * 2048 + o % 0x800)

/-- CV (R108). -/
def Cart.cellCV (o : Nat) : Cell :=
  if o < 0x400 then .ramWrite (o % 0x400) else if o < 0x800 then .ramRead (o % 0x400) else .rom (o % 0x800)

/-- `map(o)`: the byte window offset `o` names in the current bank state. -/
def Cart.cell (c : Cart) (o : Nat) : Cell :=
  match c.variant with
  | .c2K => .rom (o % 0x800)
  | .c4K => .rom o
  | .f8 => c.cell4K o
  | .f6 => c.cell4K o
  | .f4 => c.cell4K o
  | .f8sc => c.cellSC o
  | .f6sc => c.cellSC o
  | .f4sc => c.cellSC o
  | .c3F => c.cell3F o
  | .c3E => c.cell3E o
  | .e0 => .rom (c.slotBank (o / 1024) * 1024 + o % 0x400)
  | .e7 => c.cellE7 o
  | .ua => c.cell4K o
  | .cv => Cart.cellCV o
  | .fe => c.cell4K o

/-- The window offset of an address, `a & 0x0FFF`. -/
def windowOffset (a : BusAddr) : Nat := (a.setWidth 12).toNat

/-! ## Page installation (20_memory.md R65, R66, R90) -/

/-- The page-table entry of a window page whose first offset is `o`: a direct pointer where a plain access has no side
effect, the device otherwise (assumption log 14). -/
def Cart.windowPage (c : Cart) (o : Nat) : PageAccess :=
  if c.variant.hasHotspots ∧ o = 0xFC0 then { directPeek := none, directPoke := none, device := .cart }
  else
    match c.cell o with
    | .rom k => { directPeek := some ⟨.cartRom, k⟩, directPoke := none, device := .cart }
    | .ramRead k => { directPeek := some ⟨.cartRam, k⟩, directPoke := none, device := .cart }
    | .ramWrite k => { directPeek := none, directPoke := some ⟨.cartRam, k⟩, device := .cart }

/-- The variant takes the TIA page that starts at `a`: page 0 for 3F and 3E (R103, R104), $0200 and $0240 for UA (R107). -/
def CartVariant.trapsPage (v : CartVariant) (a : BusAddr) : Bool :=
  match v with
  | .c3F => a == 0x0000
  | .c3E => a == 0x0000
  | .ua => a == 0x0200 || a == 0x0240
  | _ => false

/-- The cartridge's entry for the page that starts at `a`, if the cartridge installs one. -/
def Cart.page (c : Cart) (a : BusAddr) : Option PageAccess :=
  if a.getLsbD 12 then some (c.windowPage (windowOffset a))
  else if c.variant.trapsPage a then some { directPeek := none, directPoke := none, device := .cart }
  else none

/-! ## Reset (20_memory.md R124, 70_reset_and_hazards.md R401) -/

/-- The start bank (R98 to R109): 1 for F8 and F8SC, E0's slot 0 at 4, 0 for the others. -/
def CartVariant.startBank : CartVariant → Nat
  | .f8 => 1
  | .f8sc => 1
  | .e0 => 4
  | _ => 0

/-- The cartridge's reset: start bank, registers, RAM a draw; `bank_locked`, image and key unchanged. -/
def Cart.reset (r : ResetDraws) (c : Cart) : Cart :=
  { c with
    ram := r.cartRam
    currentBank := c.variant.startBank
    slot1 := 5
    slot2 := 6
    ramBank := if c.variant = .c3E then r.ramBank3E.val else 0
    ramSelected := false
    feArmed := false }

/-! ## Host operations (20_memory.md R94) -/

/-- `patch(addr, val)` on window offset `o`: the ROM byte the current mapping names; `none` where it names none
(assumption log 16). -/
def Cart.patch (o : Nat) (v : Byte) (c : Cart) : Option Cart :=
  match c.cell o with
  | .rom k => some { c with rom := c.rom.write k v }
  | .ramRead _ => none
  | .ramWrite _ => none

/-- `get_image()`: the image bytes. -/
def Cart.image (c : Cart) : List Byte := (List.range c.romSize).map c.rom.read

/-- Legal cartridge state: the image's size fits the variant, every bank register names a bank ("Invariant: current_bank
∈ [0, bank_count)", 10_state.md R35), registers of other variants rest, both stores are canonical. -/
def Cart.wf (c : Cart) : Bool :=
  c.variant.sizeOk c.romSize && decide (c.currentBank < c.bankCount) && decide (c.slot1 < 8) && decide (c.slot2 < 8)
    && decide (c.ramBank < c.variant.ramBanks) && (!c.ramSelected || c.variant == .c3E)
    && (!c.feArmed || c.variant == .fe) && Memory.wf c.romSize c.rom && Memory.wf c.variant.ramSize c.ram

end Sys2Proof.Machine
end

