-- ==== Sys2Proof/Machine/RiotTimer.lean ====
section
/-! DEFINITION. The RIOT's registers: ports, interval timer, edge control, reset (60_exceptions.md R320 to R333). Each
function takes the cycle `t` of the access and the drawn byte it may need; the bus side is in Machine/Bus.lean. -/

namespace Sys2Proof.Machine

/-- `E = timer_n * I` with `I = 1 << timer_shift` (R326). -/
def Riot.span (r : Riot) : Nat := r.timerN.toNat * 2 ^ r.timerInterval.shift

/-- `d = (t - timer_set_cycle) mod 2^32` (R326). -/
def Riot.elapsed (r : Riot) (t : U32) : Nat := (t - r.timerSetCycle).toNat

/-- The timer has expired at cycle `t`: `d ≥ E` (R326). -/
def Riot.expired (r : Riot) (t : U32) : Bool := decide (r.span ≤ r.elapsed t)

/-- The value of an unexpired timer, `timer_n - 1 - (d >> timer_shift)` (R326). -/
def Riot.counting (r : Riot) (t : U32) : Byte :=
  BitVec.ofNat 8 (r.timerN.toNat - 1 - r.elapsed t >>> r.timerInterval.shift)

/-- `riot_after_underflow(x) = (0xFF - x) mod 256` of the `continue_1T` setting, with `x = d - E` (R326). -/
def Riot.afterUnderflow (r : Riot) (t : U32) : Byte := 0xFF - BitVec.ofNat 8 (r.elapsed t - r.span)

/-- Bit 7 of TIMINT: expired and not cleared (R327). -/
def Riot.timerFlag (r : Riot) (t : U32) : Bool := r.expired t && !r.timerFlagCleared

/-- TIMINT: bit 7 the timer flag, bit 6 `pa7_flag`, bits 5..0 those of the drawn byte (R327). -/
def Riot.timint (r : Riot) (t : U32) (drawn : Byte) : Byte :=
  (BitVec.ofBool (r.timerFlag t) ++ BitVec.ofBool r.pa7Flag) ++ drawn.extractLsb' 0 6

/-- A port's read value: output bits from the data register, input bits from the pins (R323). -/
def portValue (dr ddr pins : Byte) : Byte := dr &&& ddr ||| pins &&& ~~~ddr

/-- `port_write(k, v)` (R324). -/
def Riot.portWrite (k : BitVec 2) (v : Byte) (r : Riot) : Riot :=
  if k = 0 then { r with dra := v }
  else if k = 1 then { r with ddra := v }
  else if k = 2 then { r with drb := v }
  else { r with ddrb := v }

/-- The interval of a timer write with address bits `k` (R325). -/
def intervalOf (k : BitVec 2) : Interval :=
  if k = 0 then .i1 else if k = 1 then .i8 else if k = 2 then .i64 else .i1024

/-- `timer_write(k, e, v)` at cycle `t` (R325). -/
def Riot.timerWrite (k : BitVec 2) (e : Bool) (v : Byte) (t : U32) (r : Riot) : Riot :=
  { r with
    timerN := v
    timerInterval := intervalOf k
    timerSetCycle := t
    timerFlagCleared := false
    timerIrqEn := e }

/-- `edge_write(a1, a0)` (R328). -/
def Riot.edgeWrite (a1 a0 : Bool) (r : Riot) : Riot := { r with pa7IrqEn := a1, pa7EdgePos := a0 }

/-- An edge of PA7 since the last access sets `pa7_flag` (R328). -/
def Riot.pa7Edge (edge : Bool) (r : Riot) : Riot := { r with pa7Flag := r.pa7Flag || edge }

/-- `riot_poke(a, v)` at cycle `t` (R321). -/
def Riot.poke (a : BusAddr) (v : Byte) (t : U32) (r : Riot) : Riot :=
  if !a.getLsbD 2 then r.portWrite (a.setWidth 2) v
  else if a.getLsbD 4 then r.timerWrite (a.setWidth 2) (a.getLsbD 3) v t
  else r.edgeWrite (a.getLsbD 1) (a.getLsbD 0)

/-- `riot_irq` (R330): an output connected to nothing. -/
def Riot.irqOutput (r : Riot) (t : U32) : Bool := (r.timerIrqEn && r.timerFlag t) || (r.pa7IrqEn && r.pa7Flag)

/-- The RIOT's reset (R332): timer count, interval and RAM are draws. -/
def Riot.reset (d : ResetDraws) (_ : Riot) : Riot :=
  { ram := d.riotRam, dra := 0, ddra := 0, drb := 0, ddrb := 0, timerN := d.timerN, timerInterval := d.timerInterval,
    timerSetCycle := 0, timerFlagCleared := false, timerIrqEn := false, pa7IrqEn := false, pa7EdgePos := false,
    pa7Flag := false }

/-- `systemCyclesReset()` with `c` the value of `cycles` (R333). -/
def Riot.systemCyclesReset (c : U32) (r : Riot) : Riot := { r with timerSetCycle := r.timerSetCycle - c }

/-- The RIOT's entry for the page that starts at `a` (20_memory.md R73, R78): RAM pages direct, port and timer pages
served by the device. -/
def riotPage (a : BusAddr) : Option PageAccess :=
  if !a.getLsbD 12 && a.getLsbD 7 then
    (if a.getLsbD 9 then some { directPeek := none, directPoke := none, device := .riot }
     else
      let l : Loc := ⟨.riotRam, (a &&& 0x7F).toNat⟩
      some { directPeek := some l, directPoke := some l, device := .riot })
  else none

/-- The TIA's entry for the page that starts at `a` (20_memory.md R73). -/
def tiaPage (a : BusAddr) : Option PageAccess :=
  if !a.getLsbD 12 && !a.getLsbD 7 then some { directPeek := none, directPoke := none, device := .tia } else none

end Sys2Proof.Machine
end

