-- ==== Sys2Proof/Machine/Bus.lean ====
section
/-! DEFINITION. The paged bus: cycle counter, page table, device multiplexer, peek and poke (20_memory.md R60 to R78, R92,
R93, R103 to R107, R123). -/

namespace Sys2Proof.Machine

/-! ## Updates -/

def System.setCycles (c : U32) (y : System) : System := { y with cycles := c }
def System.setDataBus (v : Byte) (y : System) : System := { y with dataBus := v }
def System.setStatus (e : ExecStatus) (y : System) : System := { y with status := e }
def System.setRiot (r : Riot) (y : System) : System := { y with riot := r }
def System.setCart (c : Cart) (y : System) : System := { y with cart := c }
def System.setAudio (au : Audio) (y : System) : System := { y with audio := au }
def System.setDraws (k : Nat) (y : System) : System := { y with draws := k }

/-- `increment_cycles(n)` (R67). -/
def System.incrementCycles (n : U32) (y : System) : System := y.setCycles (y.cycles + n)

/-- One processor cycle: `spc` system cycles (70_reset_and_hazards.md R410). -/
def System.tick (y : System) : System := y.incrementCycles (BitVec.ofNat 32 y.cfg.spc)

/-! ## Free values (assumption log 7) -/

/-- A fresh free byte. -/
def System.drawByte (y : System) : Byte × System := (Config.freeByte y.draws, y.setDraws (y.draws + 1))

/-- A fresh free bit. -/
def System.drawBit (y : System) : Bool × System := (Config.freeBit y.draws, y.setDraws (y.draws + 1))

/-! ## Backing stores -/

/-- The byte at a location of a backing store. -/
def System.byteAt (y : System) (l : Loc) : Byte :=
  match l.store with
  | .riotRam => y.riot.ram.read l.index
  | .cartRam => y.cart.ram.read l.index
  | .cartRom => y.cart.rom.read l.index

/-- Store a byte at a location. -/
def System.storeAt (l : Loc) (v : Byte) (y : System) : System :=
  match l.store with
  | .riotRam => y.setRiot { y.riot with ram := y.riot.ram.write l.index v }
  | .cartRam => y.setCart { y.cart with ram := y.cart.ram.write l.index v }
  | .cartRom => y.setCart { y.cart with rom := y.cart.rom.write l.index v }

/-! ## The page table (10_state.md R33; 20_memory.md R65, R66) -/

/-- `a = addr & 0x1FFF` (R60). -/
def busAddr (addr : Word) : BusAddr := addr.setWidth 13

/-- The first address of the 64-byte page `a` lies in. -/
def pageStart (a : BusAddr) : BusAddr := a &&& 0x1FC0

/-- The address's offset in its page, `a & 0x3F`. -/
def pageOffset (a : BusAddr) : Nat := (a.setWidth 6).toNat

/-- What device `d` installs for the page that starts at `a`. -/
def System.installed (y : System) (a : BusAddr) : DeviceId → Option PageAccess
  | .riot => riotPage a
  | .tia => tiaPage a
  | .cart => y.cart.page a
  | .null => none

/-- A page no device installs (R66, 92 D36). -/
def nullPage : PageAccess := { directPeek := none, directPoke := none, device := .null }

/-- `page_access_table[a >> 6]`: the last attached device that installs the page owns it (R65; assumption log 13). -/
def System.pageAccess (y : System) (a : BusAddr) : PageAccess :=
  y.devices.foldl (fun p d => (y.installed (pageStart a) d).getD p) nullPage

/-! ## The TIA (R77) -/

/-- A TIA peek: the video collaborator's, a draw. -/
def System.tiaPeek (y : System) : Byte × System := y.drawByte

/-- `tia_video.poke(r, v)`: may add cycles and may set StopExecution (R77; assumption log 8). -/
def System.videoPoke (y : System) : System :=
  match y.cfg.tiaVideo with
  | .quiet => y
  | .free =>
    let stall := Config.freeCycles y.draws
    let stop := Config.freeBit y.draws
    ((y.incrementCycles stall).setStatus { y.status with stop := y.status.stop || stop }).setDraws (y.draws + 1)

/-- A TIA poke: sound registers to the audio engine, the others to the video collaborator. -/
def System.tiaPoke (a : BusAddr) (v : Byte) (y : System) : System :=
  let r : Byte := (a.setWidth 6).setWidth 8
  if isSoundReg r then y.setAudio (y.audio.set y.cfg r v y.cycles) else y.videoPoke

/-! ## The RIOT (60_exceptions.md R321) -/

/-- PA7 may have made the selected edge since the last access: a draw per access (R328; assumption log 9). -/
def System.pa7Draw (y : System) : System :=
  let e := y.drawBit
  e.2.setRiot (e.2.riot.pa7Edge e.1)

/-- `port_read(k)` (R323): ports A and B read their pins. -/
def System.portRead (k : BitVec 2) (y : System) : Byte × System :=
  if k = 1 then (y.riot.ddra, y)
  else if k = 3 then (y.riot.ddrb, y)
  else
    let pins := y.drawByte
    if k = 0 then (portValue y.riot.dra y.riot.ddra pins.1, pins.2) else (portValue y.riot.drb y.riot.ddrb pins.1, pins.2)

/-- `intim_read()` (R326). -/
def System.intimRead (y : System) : Byte × System :=
  if y.riot.expired y.cycles then
    let y' := y.setRiot { y.riot with timerFlagCleared := true }
    match y.cfg.underflow with
    | .continue1T => (y.riot.afterUnderflow y.cycles, y')
    | .draw => y'.drawByte
  else (y.riot.counting y.cycles, y)

/-- `timint_read()` (R327). -/
def System.timintRead (y : System) : Byte × System :=
  let d := y.drawByte
  (y.riot.timint y.cycles d.1, d.2.setRiot { y.riot with pa7Flag := false })

/-- `riot_peek(a)` (R321). -/
def System.riotPeek (a : BusAddr) (y : System) : Byte × System :=
  let y := y.pa7Draw
  if !a.getLsbD 2 then y.portRead (a.setWidth 2)
  else if !a.getLsbD 0 then (y.setRiot { y.riot with timerIrqEn := a.getLsbD 3 }).intimRead
  else y.timintRead

/-- `riot_poke(a, v)` (R321). -/
def System.riotPoke (a : BusAddr) (v : Byte) (y : System) : System :=
  let y := y.pa7Draw
  y.setRiot (y.riot.poke a v y.cycles)

/-! ## The cartridge -/

/-- A peek of the write port of split-port RAM: a draw, and the RAM byte is left a draw (R93; assumption log 15). -/
def System.writePortPeek (k : Nat) (y : System) : Byte × System :=
  let v := y.drawByte
  let w := v.2.drawByte
  (v.1, w.2.storeAt ⟨.cartRam, k⟩ w.1)

/-- A cartridge-served peek: in the window the hotspot, then `map(o)` (R92, R93); on a trapped page the TIA's, after UA's
switch (R103, R104, R107). -/
def System.cartPeek (a : BusAddr) (y : System) : Byte × System :=
  if a.getLsbD 12 then
    let y := y.setCart (y.cart.hotspot (windowOffset a))
    match y.cart.cell (windowOffset a) with
    | .rom k => (y.byteAt ⟨.cartRom, k⟩, y)
    | .ramRead k => (y.byteAt ⟨.cartRam, k⟩, y)
    | .ramWrite k => y.writePortPeek k
  else
    match y.cart.variant with
    | .ua => (y.setCart (y.cart.uaHotspot a)).tiaPeek
    | _ => y.tiaPeek

/-- A cartridge-served poke: in the window the hotspot, then a write-port store (R92, R93); on a trapped page the switch,
then the TIA's poke (R103, R104, R107). -/
def System.cartPoke (a : BusAddr) (v : Byte) (y : System) : System :=
  if a.getLsbD 12 then
    let y := y.setCart (y.cart.hotspot (windowOffset a))
    match y.cart.cell (windowOffset a) with
    | .rom _ => y
    | .ramRead _ => y
    | .ramWrite k => y.storeAt ⟨.cartRam, k⟩ v
  else
    match y.cart.variant with
    | .ua => (y.setCart (y.cart.uaHotspot a)).tiaPoke a v
    | _ => (y.setCart (y.cart.trapPoke a v)).tiaPoke a v

/-! ## Peek and poke (R62 to R64) -/

/-- `device(id).peek(a)` (R68); the NullDevice answers the latch (R69). -/
def System.devicePeek (d : DeviceId) (a : BusAddr) (y : System) : Byte × System :=
  match d with
  | .riot => y.riotPeek a
  | .tia => y.tiaPeek
  | .cart => y.cartPeek a
  | .null => (y.dataBus, y)

/-- `device(id).poke(a, v)` (R68); the NullDevice ignores it (R69). -/
def System.devicePoke (d : DeviceId) (a : BusAddr) (v : Byte) (y : System) : System :=
  match d with
  | .riot => y.riotPoke a v
  | .tia => y.tiaPoke a v
  | .cart => y.cartPoke a v
  | .null => y

/-- An attached FE cartridge observes the completed access (R64, R123). -/
def System.feObserve (a : BusAddr) (d : Byte) (y : System) : System :=
  if y.cart.variant = .fe ∧ y.devices.contains .cart then y.setCart (y.cart.feAccess a d) else y

/-- The read before it is latched: the page's direct pointer, or its device (R62). -/
def System.fetchByte (a : BusAddr) (y : System) : Byte × System :=
  match (y.pageAccess a).directPeek with
  | some l => (y.byteAt { l with index := l.index + pageOffset a }, y)
  | none => y.devicePeek (y.pageAccess a).device a

/-- The write before it is latched (R63). -/
def System.putByte (a : BusAddr) (v : Byte) (y : System) : System :=
  match (y.pageAccess a).directPoke with
  | some l => y.storeAt { l with index := l.index + pageOffset a } v
  | none => y.devicePoke (y.pageAccess a).device a v

/-- A read latches its value unless the latch is locked (R62). -/
def System.latch (v : Byte) (y : System) : System := if y.dataBusLocked then y else y.setDataBus v

/-- `peek(addr)` (R62). -/
def System.peek (addr : Word) (y : System) : Byte × System :=
  let r := y.fetchByte (busAddr addr)
  (r.1, (r.2.latch r.1).feObserve (busAddr addr) r.1)

/-- `poke(addr, v)` (R63). -/
def System.poke (addr : Word) (v : Byte) (y : System) : System :=
  ((y.putByte (busAddr addr) v).setDataBus v).feObserve (busAddr addr) v

/-! ## Which backing byte an access changes -/

/-- The byte a window access at `a` reaches through a write port, in the bank state the access leaves. -/
def System.writePortAt (a : BusAddr) (y : System) : Option Loc :=
  match (y.cart.hotspot (windowOffset a)).cell (windowOffset a) with
  | .ramWrite k => some ⟨.cartRam, k⟩
  | .rom _ => none
  | .ramRead _ => none

/-- The backing byte `poke(addr, _)` stores to; `none` where the poke stores to no RAM (ROM, registers, TIA). -/
def System.pokeTarget (addr : Word) (y : System) : Option Loc :=
  let a := busAddr addr
  match (y.pageAccess a).directPoke, (y.pageAccess a).device with
  | some l, _ => some { l with index := l.index + pageOffset a }
  | none, .cart => if a.getLsbD 12 then y.writePortAt a else none
  | none, _ => none

/-- The backing byte `peek(addr)` disturbs: a write port's RAM byte (R93); `none` for every other peek. -/
def System.peekTarget (addr : Word) (y : System) : Option Loc :=
  let a := busAddr addr
  match (y.pageAccess a).directPeek, (y.pageAccess a).device with
  | some _, _ => none
  | none, .cart => if a.getLsbD 12 then y.writePortAt a else none
  | none, _ => none

end Sys2Proof.Machine
end

