-- ==== Sys2Proof/Machine/Flags.lean ====
section
/-! DEFINITION. The status byte and every flag computation: N and Z, binary and decimal addition and subtraction, compare,
bit test, shifts and rotates (10_state.md R27, R28; 41_arith_logic_shift.md R220 to R226, R238, R245 to R248). -/

namespace Sys2Proof.Machine

/-! ## The status byte -/

/-- `P = N<<7 | V<<6 | 1<<5 | B<<4 | D<<3 | I<<2 | Z<<1 | C` (R27). -/
def Flags.toByte (f : Flags) : Byte :=
  BitVec.ofBool f.n ++ BitVec.ofBool f.v ++ BitVec.ofBool true ++ BitVec.ofBool f.b ++ BitVec.ofBool f.d
    ++ BitVec.ofBool f.i ++ BitVec.ofBool f.z ++ BitVec.ofBool f.c

/-- `P <- v`: bit 5 ignored (R28). -/
def Flags.ofByte (v : Byte) : Flags :=
  { n := v.getLsbD 7, v := v.getLsbD 6, b := v.getLsbD 4, d := v.getLsbD 3, i := v.getLsbD 2, z := v.getLsbD 1,
    c := v.getLsbD 0 }

/-- `SetNZ(v)` (00_scope.md R10). -/
def Flags.setNZ (v : Byte) (f : Flags) : Flags := { f with n := v.getLsbD 7, z := v == 0 }

/-- `SetNZ(v)` and the carry. -/
def Flags.setNZC (v : Byte) (c : Bool) (f : Flags) : Flags := { f.setNZ v with c := c }

/-! ## Addition and subtraction -/

/-- A carry as a number. -/
def carryNat (c : Bool) : Nat := if c then 1 else 0

/-- `r = A + M + C` (R221). -/
def addSum (a m : Byte) (c : Bool) : Nat := a.toNat + m.toNat + carryNat c

/-- `A` and the flags after a binary ADC (R221). -/
def adcBinary (a m : Byte) (f : Flags) : Byte × Flags :=
  let r := BitVec.ofNat 8 (addSum a m f.c)
  (r, { f.setNZ r with
    c := decide (0xFF < addSum a m f.c)
    v := ((a ^^^ r) &&& (m ^^^ r) &&& 0x80) != 0 })

/-- `r = A - M - (1 - C)`, an integer (R222). -/
def subDifference (a m : Byte) (c : Bool) : Int := (a.toNat : Int) - (m.toNat : Int) - (1 - (carryNat c : Int))

/-- `A` and the flags after a binary SBC (R222). -/
def sbcBinary (a m : Byte) (f : Flags) : Byte × Flags :=
  let r := BitVec.ofInt 8 (subDifference a m f.c)
  (r, { f.setNZ r with
    c := decide (0 ≤ subDifference a m f.c)
    v := ((a ^^^ m) &&& (a ^^^ r) &&& 0x80) != 0 })

/-- The low digit of a decimal addition, corrected (R223). -/
def decimalAddLow (a m : Byte) (c : Bool) : Nat :=
  let lo := a.toNat % 16 + m.toNat % 16 + carryNat c
  if 9 < lo then lo + 6 else lo

/-- The high digit of a decimal addition, corrected (R223). -/
def decimalAddHigh (a m : Byte) (c : Bool) : Nat :=
  let hi := a.toNat / 16 + m.toNat / 16 + (if 0x0F < decimalAddLow a m c then 1 else 0)
  if 9 < hi then hi + 6 else hi

/-- `A` after a decimal ADC (R223). -/
def decimalAdd (a m : Byte) (c : Bool) : Byte :=
  BitVec.ofNat 8 (decimalAddHigh a m c * 16 + decimalAddLow a m c % 16)

/-- `C` after a decimal ADC (R223). -/
def decimalAddCarry (a m : Byte) (c : Bool) : Bool := decide (0x0F < decimalAddHigh a m c)

/-- The low digit of a decimal subtraction before its correction (R224). -/
def decimalSubLow (a m : Byte) (c : Bool) : Int :=
  ((a.toNat % 16 : Nat) : Int) - ((m.toNat % 16 : Nat) : Int) - (1 - (carryNat c : Int))

/-- The high digit of a decimal subtraction after the low digit's borrow (R224). `lo & 0x10` of an integer in -16..15 is
its sign. -/
def decimalSubHigh (a m : Byte) (c : Bool) : Int :=
  let hi := ((a.toNat / 16 : Nat) : Int) - ((m.toNat / 16 : Nat) : Int)
  if decimalSubLow a m c < 0 then hi - 1 else hi

/-- A digit with its correction by 6 after a borrow (R224). -/
def decimalBorrow (digit : Int) : Int := if digit < 0 then digit - 6 else digit

/-- `A` after a decimal SBC (R224). -/
def decimalSub (a m : Byte) (c : Bool) : Byte :=
  BitVec.ofInt 8 (decimalBorrow (decimalSubHigh a m c) * 16 + decimalBorrow (decimalSubLow a m c) % 16)

/-- The flags after a decimal ADC or SBC: C as computed, N, V and Z bits 7, 6 and 1 of a free byte (R223, R224). -/
def decimalFlags (c : Bool) (drawn : Byte) (f : Flags) : Flags :=
  { f with n := drawn.getLsbD 7, v := drawn.getLsbD 6, z := drawn.getLsbD 1, c := c }

/-- `A` and the flags after a decimal ADC (R223). -/
def adcDecimal (a m : Byte) (drawn : Byte) (f : Flags) : Byte × Flags :=
  (decimalAdd a m f.c, decimalFlags (decimalAddCarry a m f.c) drawn f)

/-- `A` and the flags after a decimal SBC; C is the binary borrow (R224). -/
def sbcDecimal (a m : Byte) (drawn : Byte) (f : Flags) : Byte × Flags :=
  (decimalSub a m f.c, decimalFlags (decide (0 ≤ subDifference a m f.c)) drawn f)

/-! ## Compare, bit test, shifts -/

/-- The compare law with register value `r` (R225). -/
def compareFlags (r m : Byte) (f : Flags) : Flags :=
  { f with n := (r - m).getLsbD 7, z := r == m, c := decide (m.toNat ≤ r.toNat) }

/-- BIT (R238). -/
def bitFlags (a m : Byte) (f : Flags) : Flags :=
  { f with n := m.getLsbD 7, v := m.getLsbD 6, z := (a &&& m) == 0 }

/-- ASL: the result and the carry out (R245). -/
def shiftLeft (m : Byte) (_ : Bool) : Byte × Bool := (m <<< 1, m.getLsbD 7)

/-- LSR (R246). -/
def shiftRight (m : Byte) (_ : Bool) : Byte × Bool := (m >>> 1, m.getLsbD 0)

/-- ROL (R247). -/
def rotateLeft (m : Byte) (c : Bool) : Byte × Bool := (m <<< 1 ||| (BitVec.ofBool c).setWidth 8, m.getLsbD 7)

/-- ROR (R248). -/
def rotateRight (m : Byte) (c : Bool) : Byte × Bool := (m >>> 1 ||| (BitVec.ofBool c).setWidth 8 <<< 7, m.getLsbD 0)

end Sys2Proof.Machine
end

