-- ==== Sys2Proof/Machine/Ops.lean ====
section
/-! DEFINITION. The CPU's named operations: register updates, timed bus accesses, fetch, stack, vectors, taking a trap and
returning from one (00_scope.md R9; 60_exceptions.md R313, R315; 70_reset_and_hazards.md R410). -/

namespace Sys2Proof.Machine

/-! ## Register updates -/

def State.setA (v : Byte) (s : State) : State := { s with a := v }
def State.setX (v : Byte) (s : State) : State := { s with x := v }
def State.setY (v : Byte) (s : State) : State := { s with y := v }
def State.setSP (v : Byte) (s : State) : State := { s with sp := v }
def State.setPC (p : Word) (s : State) : State := { s with pc := p }
def State.setIR (v : Byte) (s : State) : State := { s with ir := v }
def State.setFlags (f : Flags) (s : State) : State := { s with flags := f }
def State.setInstructionCount (k : U32) (s : State) : State := { s with instructionCount := k }
def State.setLastRead (b : Bool) (s : State) : State := { s with lastAccessWasRead := b }
def State.setSys (y : System) (s : State) : State := { s with sys := y }

/-- `SetNZ(v)` (00_scope.md R10). -/
def State.setNZ (v : Byte) (s : State) : State := s.setFlags (s.flags.setNZ v)

/-! ## Processor cycles and accesses (70_reset_and_hazards.md R410) -/

/-- A processor cycle without an access. -/
def State.idle (s : State) : State := s.setSys s.sys.tick

/-- The CPU side of a peek (20_memory.md R64). -/
def State.cpuPeek (addr : Word) (s : State) : Byte × State :=
  let r := s.sys.peek addr
  (r.1, (s.setSys r.2).setLastRead true)

/-- The CPU side of a poke (20_memory.md R64). -/
def State.cpuPoke (addr : Word) (v : Byte) (s : State) : State := (s.setSys (s.sys.poke addr v)).setLastRead false

/-- `MemRead(addr, 1)` in a processor cycle of its own. -/
def State.read (addr : Word) (s : State) : Byte × State := s.idle.cpuPeek addr

/-- `MemWrite(addr, 1, v)` in a processor cycle of its own. -/
def State.write (addr : Word) (v : Byte) (s : State) : State := s.idle.cpuPoke addr v

/-- `Fetch()` (00_scope.md R9). -/
def State.fetch (s : State) : Byte × State :=
  let r := s.read s.pc
  (r.1, r.2.setPC (s.pc + 1))

/-- `Read16(addr)`: low byte, then high byte at `addr + 1` in u16 (00_scope.md R9). -/
def State.read16 (addr : Word) (s : State) : Word × State :=
  let lo := s.read addr
  let hi := lo.2.read (addr + 1)
  (wordOf hi.1 lo.1, hi.2)

/-! ## Stack (00_scope.md R9, 20_memory.md R75) -/

/-- `0x0100 | SP`. -/
def stackAddr (sp : Byte) : Word := wordOf 0x01 sp

/-- `Push(v)`. -/
def State.push (v : Byte) (s : State) : State := (s.write (stackAddr s.sp) v).setSP (s.sp - 1)

/-- `Pull()`. -/
def State.pull (s : State) : Byte × State := (s.setSP (s.sp + 1)).read (stackAddr (s.sp + 1))

/-- `Push(w >> 8)`, then `Push(w & 0xFF)`. -/
def State.pushWord (w : Word) (s : State) : State := (s.push (hiByte w)).push (loByte w)

/-- `lo <- Pull(); hi <- Pull()`. -/
def State.pullWord (s : State) : Word × State :=
  let lo := s.pull
  let hi := lo.2.pull
  (wordOf hi.1 lo.1, hi.2)

/-! ## Traps -/

/-- The NMI vector (60_exceptions.md R314). -/
def nmiVector : Word := 0xFFFA

/-- The reset vector. -/
def resetVector : Word := 0xFFFC

/-- The IRQ/BRK vector. -/
def irqVector : Word := 0xFFFE

/-- Taking a trap: push PC's high byte, its low byte and P with bit 4 = `b` and bit 5 = 1; `B <- b`, `I <- 1`; PC from the
vector. Shared by IRQ and NMI entry (60_exceptions.md R313, `b` = 0) and BRK (42_control_flags.md R271, `b` = 1). -/
def State.trap (ret : Word) (b : Bool) (vec : Word) (s : State) : State :=
  let s := s.pushWord ret
  let s := s.setFlags { s.flags with b := b }
  let s := s.push s.flags.toByte
  let s := s.setFlags { s.flags with i := true }
  let p := s.read16 vec
  p.2.setPC p.1

/-- `interrupt_entry(vec)`: seven processor cycles, the first two without an access (60_exceptions.md R313,
70_reset_and_hazards.md R414). -/
def State.interruptEntry (vec : Word) (s : State) : State := s.idle.idle.trap s.pc false vec

/-- Returning from a trap: `P <- Pull(); lo <- Pull(); hi <- Pull(); PC <- hi:lo` (42_control_flags.md R272). -/
def State.trapReturn (s : State) : State :=
  let p := s.pull
  let s := p.2.setFlags (Flags.ofByte p.1)
  let r := s.pullWord
  r.2.setPC r.1

/-- `raise FatalError`: the status bit set, PC back at the opcode (60_exceptions.md R303). -/
def State.raiseFatal (start : Word) (s : State) : State :=
  (s.setSys (s.sys.setStatus { s.sys.status with fatal := true })).setPC start

/-! ## Interrupts between instructions (60_exceptions.md R300, R310, R311) -/

/-- `take_interrupt(NMI)` (R311). -/
def State.takeNMI (s : State) : State :=
  (s.setSys (s.sys.setStatus { s.sys.status with nmi := false })).interruptEntry nmiVector

/-- `take_interrupt(IRQ)` (R310). -/
def State.takeIRQ (s : State) : State :=
  (s.setSys (s.sys.setStatus { s.sys.status with irq := false })).interruptEntry irqVector

/-- The check before an instruction: NMI, else IRQ unless masked; at most one entry (R300, R312). -/
def State.serviceInterrupt (s : State) : State :=
  if s.sys.status.nmi then s.takeNMI
  else if s.sys.status.irq && !s.flags.i then s.takeIRQ
  else s

/-! ## Instruction fetch (60_exceptions.md R302; 30_encoding.md R140) -/

/-- The opcode fetch: `IR <- Fetch()`. -/
def State.fetchOpcode (s : State) : Byte × State :=
  let r := s.fetch
  (r.1, r.2.setIR r.1)

/-- `n` operand bytes in address order. -/
def State.fetchBytes : Nat → State → List Byte × State
  | 0, s => ([], s)
  | n + 1, s =>
    let b := s.fetch
    let r := State.fetchBytes n b.2
    (b.1 :: r.1, r.2)

/-- The bytes of the next instruction as far as they are fetched before it executes, and the state after those fetches. -/
def State.fetchInstruction (s : State) : List Byte × State :=
  let op := s.fetchOpcode
  let r := State.fetchBytes (operandBytesOf op.1) op.2
  (op.1 :: r.1, r.2)

end Sys2Proof.Machine
end

