-- ==== Sys2Proof/Machine/Operands.lean ====
section
/-! DEFINITION. Effective addresses and operand accesses, with their processor cycles (30_encoding.md R142 to R153;
70_reset_and_hazards.md R412, R416). The operand bytes have been fetched: each function starts after them. -/

namespace Sys2Proof.Machine

/-- How an instruction uses its memory operand (R142). -/
inductive AccessClass where
  | read
  | write
  | readModifyWrite
deriving DecidableEq, Repr, Inhabited

/-- `crossed`: two addresses differ in bits 15..8 (R148, R151, R152). -/
def crossed (p q : Word) : Bool := hiByte p != hiByte q

/-- `base + index` in u16 (R151). A read pays a cycle only when the page is crossed; a store or read-modify-write always
does (70_reset_and_hazards.md R412). -/
def State.indexed (c : AccessClass) (base : Word) (index : Byte) (s : State) : Word × State :=
  let ea := base + index.setWidth 16
  match c with
  | .read => (ea, if crossed base ea then s.idle else s)
  | .write => (ea, s.idle)
  | .readModifyWrite => (ea, s.idle)

/-- A pointer in page zero: its bytes at `z` and `(z + 1) & 0xFF` (R147, R148). -/
def State.zeroPagePointer (z : Byte) (s : State) : Word × State :=
  let lo := s.read (zeroPage z)
  let hi := lo.2.read (zeroPage (z + 1))
  (wordOf hi.1 lo.1, hi.2)

/-- The effective address and the state after the cycles and pointer reads that form it. -/
def State.effectiveAddress (c : AccessClass) (m : MemOperand) (s : State) : Word × State :=
  match m with
  | .zp z => (zeroPage z, s)
  | .zpX z => (zeroPage (z + s.x), s.idle)
  | .zpY z => (zeroPage (z + s.y), s.idle)
  | .abs a => (a, s)
  | .absX a => s.indexed c a s.x
  | .absY a => s.indexed c a s.y
  | .indX z => s.idle.zeroPagePointer (z + s.x)
  | .indY z =>
    let p := s.zeroPagePointer z
    p.2.indexed c p.1 s.y

/-- `M` of a read-class instruction (R142, R144). -/
def State.readSource (o : Source) (s : State) : Byte × State :=
  match o with
  | .imm v => (v, s)
  | .mem m =>
    let ea := s.effectiveAddress .read m
    ea.2.read ea.1

/-- A write-class instruction (R142). -/
def State.store (m : MemOperand) (v : Byte) (s : State) : State :=
  let ea := s.effectiveAddress .write m
  ea.2.write ea.1 v

/-- A read-modify-write instruction: read, a cycle, write of `(f M).1`, then the flags (R142). -/
def State.modify (m : MemOperand) (f : Byte → Byte × Flags) (s : State) : State :=
  let ea := s.effectiveAddress .readModifyWrite m
  let r := ea.2.read ea.1
  let n := f r.1
  (r.2.idle.write ea.1 n.1).setFlags n.2

/-- JMP's target from its pointer: the high byte from the same page (R150). -/
def State.indirectTarget (p : Word) (s : State) : Word × State :=
  let lo := s.read p
  let hi := lo.2.read (wordOf (hiByte p) (loByte p + 1))
  (wordOf hi.1 lo.1, hi.2)

end Sys2Proof.Machine
end

