-- ==== Sys2Proof/Machine/ArithLogic.lean ====
section
/-! DEFINITION. Addition, subtraction, logic, compare and bit test (41_arith_logic_shift.md R220 to R225, R230 to R238). -/

namespace Sys2Proof.Machine

/-! ## Shared effects -/

/-- ADC: binary, or decimal with a fresh free byte for N, V and Z (R230, R221, R223). -/
def State.adc (o : Source) (s : State) : State :=
  let m := s.readSource o
  if s.flags.d then
    let d := m.2.sys.drawByte
    let r := adcDecimal s.a m.1 d.1 s.flags
    ((m.2.setSys d.2).setA r.1).setFlags r.2
  else
    let r := adcBinary s.a m.1 s.flags
    (m.2.setA r.1).setFlags r.2

/-- SBC (R231, R222, R224). -/
def State.sbc (o : Source) (s : State) : State :=
  let m := s.readSource o
  if s.flags.d then
    let d := m.2.sys.drawByte
    let r := sbcDecimal s.a m.1 d.1 s.flags
    ((m.2.setSys d.2).setA r.1).setFlags r.2
  else
    let r := sbcBinary s.a m.1 s.flags
    (m.2.setA r.1).setFlags r.2

/-- AND (R232). -/
def State.andA (o : Source) (s : State) : State :=
  let m := s.readSource o
  (m.2.setA (s.a &&& m.1)).setNZ (s.a &&& m.1)

/-- ORA (R233). -/
def State.oraA (o : Source) (s : State) : State :=
  let m := s.readSource o
  (m.2.setA (s.a ||| m.1)).setNZ (s.a ||| m.1)

/-- EOR (R234). -/
def State.eorA (o : Source) (s : State) : State :=
  let m := s.readSource o
  (m.2.setA (s.a ^^^ m.1)).setNZ (s.a ^^^ m.1)

/-- CMP, CPX, CPY with register value `r` (R225, R235 to R237). -/
def State.compare (r : Byte) (o : Source) (s : State) : State :=
  let m := s.readSource o
  m.2.setFlags (compareFlags r m.1 s.flags)

/-- BIT (R238). -/
def State.bitTest (o : Source) (s : State) : State :=
  let m := s.readSource o
  m.2.setFlags (bitFlags s.a m.1 s.flags)

/-! ## Meanings -/

/-- `ADC #v` ($69), R230. -/
def execAdcImm (v : Byte) (s : State) : Host.Outcome State Fault Refusal := .next (s.adc (.imm v))

/-- `ADC z` ($65), R230. -/
def execAdcZp (z : Byte) (s : State) : Host.Outcome State Fault Refusal := .next (s.adc (.mem (.zp z)))

/-- `ADC z,X` ($75), R230. -/
def execAdcZpX (z : Byte) (s : State) : Host.Outcome State Fault Refusal := .next (s.adc (.mem (.zpX z)))

/-- `ADC a` ($6D), R230. -/
def execAdcAbs (a : Word) (s : State) : Host.Outcome State Fault Refusal := .next (s.adc (.mem (.abs a)))

/-- `ADC a,X` ($7D), R230. -/
def execAdcAbsX (a : Word) (s : State) : Host.Outcome State Fault Refusal := .next (s.adc (.mem (.absX a)))

/-- `ADC a,Y` ($79), R230. -/
def execAdcAbsY (a : Word) (s : State) : Host.Outcome State Fault Refusal := .next (s.adc (.mem (.absY a)))

/-- `ADC (z,X)` ($61), R230. -/
def execAdcIndX (z : Byte) (s : State) : Host.Outcome State Fault Refusal := .next (s.adc (.mem (.indX z)))

/-- `ADC (z),Y` ($71), R230. -/
def execAdcIndY (z : Byte) (s : State) : Host.Outcome State Fault Refusal := .next (s.adc (.mem (.indY z)))

/-- `SBC #v` ($E9), R231. -/
def execSbcImm (v : Byte) (s : State) : Host.Outcome State Fault Refusal := .next (s.sbc (.imm v))

/-- `SBC z` ($E5), R231. -/
def execSbcZp (z : Byte) (s : State) : Host.Outcome State Fault Refusal := .next (s.sbc (.mem (.zp z)))

/-- `SBC z,X` ($F5), R231. -/
def execSbcZpX (z : Byte) (s : State) : Host.Outcome State Fault Refusal := .next (s.sbc (.mem (.zpX z)))

/-- `SBC a` ($ED), R231. -/
def execSbcAbs (a : Word) (s : State) : Host.Outcome State Fault Refusal := .next (s.sbc (.mem (.abs a)))

/-- `SBC a,X` ($FD), R231. -/
def execSbcAbsX (a : Word) (s : State) : Host.Outcome State Fault Refusal := .next (s.sbc (.mem (.absX a)))

/-- `SBC a,Y` ($F9), R231. -/
def execSbcAbsY (a : Word) (s : State) : Host.Outcome State Fault Refusal := .next (s.sbc (.mem (.absY a)))

/-- `SBC (z,X)` ($E1), R231. -/
def execSbcIndX (z : Byte) (s : State) : Host.Outcome State Fault Refusal := .next (s.sbc (.mem (.indX z)))

/-- `SBC (z),Y` ($F1), R231. -/
def execSbcIndY (z : Byte) (s : State) : Host.Outcome State Fault Refusal := .next (s.sbc (.mem (.indY z)))

/-- `AND #v` ($29), R232. -/
def execAndImm (v : Byte) (s : State) : Host.Outcome State Fault Refusal := .next (s.andA (.imm v))

/-- `AND z` ($25), R232. -/
def execAndZp (z : Byte) (s : State) : Host.Outcome State Fault Refusal := .next (s.andA (.mem (.zp z)))

/-- `AND z,X` ($35), R232. -/
def execAndZpX (z : Byte) (s : State) : Host.Outcome State Fault Refusal := .next (s.andA (.mem (.zpX z)))

/-- `AND a` ($2D), R232. -/
def execAndAbs (a : Word) (s : State) : Host.Outcome State Fault Refusal := .next (s.andA (.mem (.abs a)))

/-- `AND a,X` ($3D), R232. -/
def execAndAbsX (a : Word) (s : State) : Host.Outcome State Fault Refusal := .next (s.andA (.mem (.absX a)))

/-- `AND a,Y` ($39), R232. -/
def execAndAbsY (a : Word) (s : State) : Host.Outcome State Fault Refusal := .next (s.andA (.mem (.absY a)))

/-- `AND (z,X)` ($21), R232. -/
def execAndIndX (z : Byte) (s : State) : Host.Outcome State Fault Refusal := .next (s.andA (.mem (.indX z)))

/-- `AND (z),Y` ($31), R232. -/
def execAndIndY (z : Byte) (s : State) : Host.Outcome State Fault Refusal := .next (s.andA (.mem (.indY z)))

/-- `ORA #v` ($09), R233. -/
def execOraImm (v : Byte) (s : State) : Host.Outcome State Fault Refusal := .next (s.oraA (.imm v))

/-- `ORA z` ($05), R233. -/
def execOraZp (z : Byte) (s : State) : Host.Outcome State Fault Refusal := .next (s.oraA (.mem (.zp z)))

/-- `ORA z,X` ($15), R233. -/
def execOraZpX (z : Byte) (s : State) : Host.Outcome State Fault Refusal := .next (s.oraA (.mem (.zpX z)))

/-- `ORA a` ($0D), R233. -/
def execOraAbs (a : Word) (s : State) : Host.Outcome State Fault Refusal := .next (s.oraA (.mem (.abs a)))

/-- `ORA a,X` ($1D), R233. -/
def execOraAbsX (a : Word) (s : State) : Host.Outcome State Fault Refusal := .next (s.oraA (.mem (.absX a)))

/-- `ORA a,Y` ($19), R233. -/
def execOraAbsY (a : Word) (s : State) : Host.Outcome State Fault Refusal := .next (s.oraA (.mem (.absY a)))

/-- `ORA (z,X)` ($01), R233. -/
def execOraIndX (z : Byte) (s : State) : Host.Outcome State Fault Refusal := .next (s.oraA (.mem (.indX z)))

/-- `ORA (z),Y` ($11), R233. -/
def execOraIndY (z : Byte) (s : State) : Host.Outcome State Fault Refusal := .next (s.oraA (.mem (.indY z)))

/-- `EOR #v` ($49), R234. -/
def execEorImm (v : Byte) (s : State) : Host.Outcome State Fault Refusal := .next (s.eorA (.imm v))

/-- `EOR z` ($45), R234. -/
def execEorZp (z : Byte) (s : State) : Host.Outcome State Fault Refusal := .next (s.eorA (.mem (.zp z)))

/-- `EOR z,X` ($55), R234. -/
def execEorZpX (z : Byte) (s : State) : Host.Outcome State Fault Refusal := .next (s.eorA (.mem (.zpX z)))

/-- `EOR a` ($4D), R234. -/
def execEorAbs (a : Word) (s : State) : Host.Outcome State Fault Refusal := .next (s.eorA (.mem (.abs a)))

/-- `EOR a,X` ($5D), R234. -/
def execEorAbsX (a : Word) (s : State) : Host.Outcome State Fault Refusal := .next (s.eorA (.mem (.absX a)))

/-- `EOR a,Y` ($59), R234. -/
def execEorAbsY (a : Word) (s : State) : Host.Outcome State Fault Refusal := .next (s.eorA (.mem (.absY a)))

/-- `EOR (z,X)` ($41), R234. -/
def execEorIndX (z : Byte) (s : State) : Host.Outcome State Fault Refusal := .next (s.eorA (.mem (.indX z)))

/-- `EOR (z),Y` ($51), R234. -/
def execEorIndY (z : Byte) (s : State) : Host.Outcome State Fault Refusal := .next (s.eorA (.mem (.indY z)))

/-- `CMP #v` ($C9), R235. -/
def execCmpImm (v : Byte) (s : State) : Host.Outcome State Fault Refusal := .next (s.compare s.a (.imm v))

/-- `CMP z` ($C5), R235. -/
def execCmpZp (z : Byte) (s : State) : Host.Outcome State Fault Refusal := .next (s.compare s.a (.mem (.zp z)))

/-- `CMP z,X` ($D5), R235. -/
def execCmpZpX (z : Byte) (s : State) : Host.Outcome State Fault Refusal := .next (s.compare s.a (.mem (.zpX z)))

/-- `CMP a` ($CD), R235. -/
def execCmpAbs (a : Word) (s : State) : Host.Outcome State Fault Refusal := .next (s.compare s.a (.mem (.abs a)))

/-- `CMP a,X` ($DD), R235. -/
def execCmpAbsX (a : Word) (s : State) : Host.Outcome State Fault Refusal := .next (s.compare s.a (.mem (.absX a)))

/-- `CMP a,Y` ($D9), R235. -/
def execCmpAbsY (a : Word) (s : State) : Host.Outcome State Fault Refusal := .next (s.compare s.a (.mem (.absY a)))

/-- `CMP (z,X)` ($C1), R235. -/
def execCmpIndX (z : Byte) (s : State) : Host.Outcome State Fault Refusal := .next (s.compare s.a (.mem (.indX z)))

/-- `CMP (z),Y` ($D1), R235. -/
def execCmpIndY (z : Byte) (s : State) : Host.Outcome State Fault Refusal := .next (s.compare s.a (.mem (.indY z)))

/-- `CPX #v` ($E0), R236. -/
def execCpxImm (v : Byte) (s : State) : Host.Outcome State Fault Refusal := .next (s.compare s.x (.imm v))

/-- `CPX z` ($E4), R236. -/
def execCpxZp (z : Byte) (s : State) : Host.Outcome State Fault Refusal := .next (s.compare s.x (.mem (.zp z)))

/-- `CPX a` ($EC), R236. -/
def execCpxAbs (a : Word) (s : State) : Host.Outcome State Fault Refusal := .next (s.compare s.x (.mem (.abs a)))

/-- `CPY #v` ($C0), R237. -/
def execCpyImm (v : Byte) (s : State) : Host.Outcome State Fault Refusal := .next (s.compare s.y (.imm v))

/-- `CPY z` ($C4), R237. -/
def execCpyZp (z : Byte) (s : State) : Host.Outcome State Fault Refusal := .next (s.compare s.y (.mem (.zp z)))

/-- `CPY a` ($CC), R237. -/
def execCpyAbs (a : Word) (s : State) : Host.Outcome State Fault Refusal := .next (s.compare s.y (.mem (.abs a)))

/-- `BIT z` ($24), R238. -/
def execBitZp (z : Byte) (s : State) : Host.Outcome State Fault Refusal := .next (s.bitTest (.mem (.zp z)))

/-- `BIT a` ($2C), R238. -/
def execBitAbs (a : Word) (s : State) : Host.Outcome State Fault Refusal := .next (s.bitTest (.mem (.abs a)))

end Sys2Proof.Machine
end

