-- ==== Sys2Proof/Machine/Control.lean ====
section
/-! DEFINITION. Branches, jumps, call and return, BRK, RTI, NOP and the flag instructions (42_control_flags.md R255 to
R280). -/

namespace Sys2Proof.Machine

/-! ## Shared effects -/

/-- The common rule of the branches (R255): a taken branch costs a cycle, one more when the target's page differs
(70_reset_and_hazards.md R413). -/
def State.branch (cond : Bool) (d : Int) (s : State) : State :=
  if cond then
    let target := s.pc + displacement d
    let s' := s.idle
    (if crossed s.pc target then s'.idle else s').setPC target
  else s

/-- JMP (p) (R268, 30_encoding.md R150). -/
def State.jumpIndirect (p : Word) (s : State) : State :=
  let t := s.indirectTarget p
  t.2.setPC t.1

/-- JSR (R269): with PC at the high byte, push PC, then read the high byte. -/
def State.jsr (lo : Byte) (s : State) : State :=
  let s := s.idle.pushWord s.pc
  let hi := s.read s.pc
  hi.2.setPC (wordOf hi.1 lo)

/-- RTS (R270): two cycles, two pulls, a cycle. -/
def State.rts (s : State) : State :=
  let r := s.idle.idle.pullWord
  r.2.idle.setPC (r.1 + 1)

/-- BRK (R271): the padding byte is skipped, not read. -/
def State.brk (s : State) : State := s.idle.trap (s.pc + 1) true irqVector

/-- RTI (R272). -/
def State.rti (s : State) : State := s.idle.idle.trapReturn

/-- NOP (R273). -/
def State.nop (s : State) : State := s.idle

/-- CLC (R274). -/
def State.clc (s : State) : State := s.idle.setFlags { s.flags with c := false }

/-- CLD (R275). -/
def State.cld (s : State) : State := s.idle.setFlags { s.flags with d := false }

/-- CLI (R276). -/
def State.cli (s : State) : State := s.idle.setFlags { s.flags with i := false }

/-- CLV (R277). -/
def State.clv (s : State) : State := s.idle.setFlags { s.flags with v := false }

/-- SEC (R278). -/
def State.sec (s : State) : State := s.idle.setFlags { s.flags with c := true }

/-- SED (R279). -/
def State.sed (s : State) : State := s.idle.setFlags { s.flags with d := true }

/-- SEI (R280). -/
def State.sei (s : State) : State := s.idle.setFlags { s.flags with i := true }

/-! ## Meanings -/

/-- `BCC d` ($90), R260. -/
def execBcc (d : Int) (s : State) : Host.Outcome State Fault Refusal := .next (s.branch (!s.flags.c) d)

/-- `BCS d` ($B0), R261. -/
def execBcs (d : Int) (s : State) : Host.Outcome State Fault Refusal := .next (s.branch s.flags.c d)

/-- `BEQ d` ($F0), R262. -/
def execBeq (d : Int) (s : State) : Host.Outcome State Fault Refusal := .next (s.branch s.flags.z d)

/-- `BMI d` ($30), R263. -/
def execBmi (d : Int) (s : State) : Host.Outcome State Fault Refusal := .next (s.branch s.flags.n d)

/-- `BNE d` ($D0), R264. -/
def execBne (d : Int) (s : State) : Host.Outcome State Fault Refusal := .next (s.branch (!s.flags.z) d)

/-- `BPL d` ($10), R265. -/
def execBpl (d : Int) (s : State) : Host.Outcome State Fault Refusal := .next (s.branch (!s.flags.n) d)

/-- `BVC d` ($50), R266. -/
def execBvc (d : Int) (s : State) : Host.Outcome State Fault Refusal := .next (s.branch (!s.flags.v) d)

/-- `BVS d` ($70), R267. -/
def execBvs (d : Int) (s : State) : Host.Outcome State Fault Refusal := .next (s.branch s.flags.v d)

/-- `JMP a` ($4C), R268. -/
def execJmpAbs (a : Word) (s : State) : Host.Outcome State Fault Refusal := .next (s.setPC a)

/-- `JMP (p)` ($6C), R268. -/
def execJmpInd (p : Word) (s : State) : Host.Outcome State Fault Refusal := .next (s.jumpIndirect p)

/-- `JSR a` ($20), R269. -/
def execJsr (lo : Byte) (s : State) : Host.Outcome State Fault Refusal := .next (s.jsr lo)

/-- `RTS` ($60), R270. -/
def execRts (s : State) : Host.Outcome State Fault Refusal := .next (s.rts)

/-- `BRK` ($00), R271. -/
def execBrk (s : State) : Host.Outcome State Fault Refusal := .next (s.brk)

/-- `RTI` ($40), R272. -/
def execRti (s : State) : Host.Outcome State Fault Refusal := .next (s.rti)

/-- `NOP` ($EA), R273. -/
def execNop (s : State) : Host.Outcome State Fault Refusal := .next (s.nop)

/-- `CLC` ($18), R274. -/
def execClc (s : State) : Host.Outcome State Fault Refusal := .next (s.clc)

/-- `CLD` ($D8), R275. -/
def execCld (s : State) : Host.Outcome State Fault Refusal := .next (s.cld)

/-- `CLI` ($58), R276. -/
def execCli (s : State) : Host.Outcome State Fault Refusal := .next (s.cli)

/-- `CLV` ($B8), R277. -/
def execClv (s : State) : Host.Outcome State Fault Refusal := .next (s.clv)

/-- `SEC` ($38), R278. -/
def execSec (s : State) : Host.Outcome State Fault Refusal := .next (s.sec)

/-- `SED` ($F8), R279. -/
def execSed (s : State) : Host.Outcome State Fault Refusal := .next (s.sed)

/-- `SEI` ($78), R280. -/
def execSei (s : State) : Host.Outcome State Fault Refusal := .next (s.sei)

end Sys2Proof.Machine
end

