-- ==== Sys2Proof/Machine/IncShift.lean ====
section
/-! DEFINITION. Increment, decrement, shifts and rotates (41_arith_logic_shift.md R226, R239 to R248). -/

namespace Sys2Proof.Machine

/-! ## Shared effects -/

/-- INC (R239). -/
def State.incM (m : MemOperand) (s : State) : State := s.modify m fun v => (v + 1, s.flags.setNZ (v + 1))

/-- DEC (R240). -/
def State.decM (m : MemOperand) (s : State) : State := s.modify m fun v => (v - 1, s.flags.setNZ (v - 1))

/-- INX (R241). -/
def State.inx (s : State) : State := (s.idle.setX (s.x + 1)).setNZ (s.x + 1)

/-- INY (R242). -/
def State.iny (s : State) : State := (s.idle.setY (s.y + 1)).setNZ (s.y + 1)

/-- DEX (R243). -/
def State.dex (s : State) : State := (s.idle.setX (s.x - 1)).setNZ (s.x - 1)

/-- DEY (R244). -/
def State.dey (s : State) : State := (s.idle.setY (s.y - 1)).setNZ (s.y - 1)

/-- The accumulator form of a shift or rotate `f` (R245 to R248, 30_encoding.md R153). -/
def State.shiftA (f : Byte → Bool → Byte × Bool) (s : State) : State :=
  let r := f s.a s.flags.c
  (s.idle.setA r.1).setFlags (s.flags.setNZC r.1 r.2)

/-- The memory forms of a shift or rotate `f` (R245 to R248). -/
def State.shiftM (f : Byte → Bool → Byte × Bool) (m : MemOperand) (s : State) : State :=
  s.modify m fun v => ((f v s.flags.c).1, s.flags.setNZC (f v s.flags.c).1 (f v s.flags.c).2)

/-! ## Meanings -/

/-- `INC z` ($E6), R239. -/
def execIncZp (z : Byte) (s : State) : Host.Outcome State Fault Refusal := .next (s.incM (.zp z))

/-- `INC z,X` ($F6), R239. -/
def execIncZpX (z : Byte) (s : State) : Host.Outcome State Fault Refusal := .next (s.incM (.zpX z))

/-- `INC a` ($EE), R239. -/
def execIncAbs (a : Word) (s : State) : Host.Outcome State Fault Refusal := .next (s.incM (.abs a))

/-- `INC a,X` ($FE), R239. -/
def execIncAbsX (a : Word) (s : State) : Host.Outcome State Fault Refusal := .next (s.incM (.absX a))

/-- `DEC z` ($C6), R240. -/
def execDecZp (z : Byte) (s : State) : Host.Outcome State Fault Refusal := .next (s.decM (.zp z))

/-- `DEC z,X` ($D6), R240. -/
def execDecZpX (z : Byte) (s : State) : Host.Outcome State Fault Refusal := .next (s.decM (.zpX z))

/-- `DEC a` ($CE), R240. -/
def execDecAbs (a : Word) (s : State) : Host.Outcome State Fault Refusal := .next (s.decM (.abs a))

/-- `DEC a,X` ($DE), R240. -/
def execDecAbsX (a : Word) (s : State) : Host.Outcome State Fault Refusal := .next (s.decM (.absX a))

/-- `INX` ($E8), R241. -/
def execInx (s : State) : Host.Outcome State Fault Refusal := .next (s.inx)

/-- `INY` ($C8), R242. -/
def execIny (s : State) : Host.Outcome State Fault Refusal := .next (s.iny)

/-- `DEX` ($CA), R243. -/
def execDex (s : State) : Host.Outcome State Fault Refusal := .next (s.dex)

/-- `DEY` ($88), R244. -/
def execDey (s : State) : Host.Outcome State Fault Refusal := .next (s.dey)

/-- `ASL A` ($0A), R245. -/
def execAslAcc (s : State) : Host.Outcome State Fault Refusal := .next (s.shiftA shiftLeft)

/-- `ASL z` ($06), R245. -/
def execAslZp (z : Byte) (s : State) : Host.Outcome State Fault Refusal := .next (s.shiftM shiftLeft (.zp z))

/-- `ASL z,X` ($16), R245. -/
def execAslZpX (z : Byte) (s : State) : Host.Outcome State Fault Refusal := .next (s.shiftM shiftLeft (.zpX z))

/-- `ASL a` ($0E), R245. -/
def execAslAbs (a : Word) (s : State) : Host.Outcome State Fault Refusal := .next (s.shiftM shiftLeft (.abs a))

/-- `ASL a,X` ($1E), R245. -/
def execAslAbsX (a : Word) (s : State) : Host.Outcome State Fault Refusal := .next (s.shiftM shiftLeft (.absX a))

/-- `LSR A` ($4A), R246. -/
def execLsrAcc (s : State) : Host.Outcome State Fault Refusal := .next (s.shiftA shiftRight)

/-- `LSR z` ($46), R246. -/
def execLsrZp (z : Byte) (s : State) : Host.Outcome State Fault Refusal := .next (s.shiftM shiftRight (.zp z))

/-- `LSR z,X` ($56), R246. -/
def execLsrZpX (z : Byte) (s : State) : Host.Outcome State Fault Refusal := .next (s.shiftM shiftRight (.zpX z))

/-- `LSR a` ($4E), R246. -/
def execLsrAbs (a : Word) (s : State) : Host.Outcome State Fault Refusal := .next (s.shiftM shiftRight (.abs a))

/-- `LSR a,X` ($5E), R246. -/
def execLsrAbsX (a : Word) (s : State) : Host.Outcome State Fault Refusal := .next (s.shiftM shiftRight (.absX a))

/-- `ROL A` ($2A), R247. -/
def execRolAcc (s : State) : Host.Outcome State Fault Refusal := .next (s.shiftA rotateLeft)

/-- `ROL z` ($26), R247. -/
def execRolZp (z : Byte) (s : State) : Host.Outcome State Fault Refusal := .next (s.shiftM rotateLeft (.zp z))

/-- `ROL z,X` ($36), R247. -/
def execRolZpX (z : Byte) (s : State) : Host.Outcome State Fault Refusal := .next (s.shiftM rotateLeft (.zpX z))

/-- `ROL a` ($2E), R247. -/
def execRolAbs (a : Word) (s : State) : Host.Outcome State Fault Refusal := .next (s.shiftM rotateLeft (.abs a))

/-- `ROL a,X` ($3E), R247. -/
def execRolAbsX (a : Word) (s : State) : Host.Outcome State Fault Refusal := .next (s.shiftM rotateLeft (.absX a))

/-- `ROR A` ($6A), R248. -/
def execRorAcc (s : State) : Host.Outcome State Fault Refusal := .next (s.shiftA rotateRight)

/-- `ROR z` ($66), R248. -/
def execRorZp (z : Byte) (s : State) : Host.Outcome State Fault Refusal := .next (s.shiftM rotateRight (.zp z))

/-- `ROR z,X` ($76), R248. -/
def execRorZpX (z : Byte) (s : State) : Host.Outcome State Fault Refusal := .next (s.shiftM rotateRight (.zpX z))

/-- `ROR a` ($6E), R248. -/
def execRorAbs (a : Word) (s : State) : Host.Outcome State Fault Refusal := .next (s.shiftM rotateRight (.abs a))

/-- `ROR a,X` ($7E), R248. -/
def execRorAbsX (a : Word) (s : State) : Host.Outcome State Fault Refusal := .next (s.shiftM rotateRight (.absX a))

end Sys2Proof.Machine
end

