-- ==== Sys2Proof/Machine/LoadStore.lean ====
section
/-! DEFINITION. Loads, stores, register transfers and the stack instructions (40_load_store_transfer.md R200 to R215). -/

namespace Sys2Proof.Machine

/-! ## Shared effects -/

/-- `A <- M; SetNZ(A)` (R200). -/
def State.loadA (o : Source) (s : State) : State :=
  let m := s.readSource o
  (m.2.setA m.1).setNZ m.1

/-- `X <- M; SetNZ(X)` (R201). -/
def State.loadX (o : Source) (s : State) : State :=
  let m := s.readSource o
  (m.2.setX m.1).setNZ m.1

/-- `Y <- M; SetNZ(Y)` (R202). -/
def State.loadY (o : Source) (s : State) : State :=
  let m := s.readSource o
  (m.2.setY m.1).setNZ m.1

/-- TAX (R206). -/
def State.tax (s : State) : State := (s.idle.setX s.a).setNZ s.a

/-- TAY (R207). -/
def State.tay (s : State) : State := (s.idle.setY s.a).setNZ s.a

/-- TXA (R208). -/
def State.txa (s : State) : State := (s.idle.setA s.x).setNZ s.x

/-- TYA (R209). -/
def State.tya (s : State) : State := (s.idle.setA s.y).setNZ s.y

/-- TSX (R210). -/
def State.tsx (s : State) : State := (s.idle.setX s.sp).setNZ s.sp

/-- TXS: no flag (R211). -/
def State.txs (s : State) : State := s.idle.setSP s.x

/-- PHA (R212): a cycle, then the push. -/
def State.pha (s : State) : State := s.idle.push s.a

/-- PHP: `Push(P | 0x30)` (R213). -/
def State.php (s : State) : State := s.idle.push (s.flags.toByte ||| 0x30)

/-- PLA (R214): two cycles, then the pull. -/
def State.pla (s : State) : State :=
  let m := s.idle.idle.pull
  (m.2.setA m.1).setNZ m.1

/-- PLP: `P <- Pull()` (R215). -/
def State.plp (s : State) : State :=
  let m := s.idle.idle.pull
  m.2.setFlags (Flags.ofByte m.1)

/-! ## Meanings -/

/-- `LDA #v` ($A9), R200. -/
def execLdaImm (v : Byte) (s : State) : Host.Outcome State Fault Refusal := .next (s.loadA (.imm v))

/-- `LDA z` ($A5), R200. -/
def execLdaZp (z : Byte) (s : State) : Host.Outcome State Fault Refusal := .next (s.loadA (.mem (.zp z)))

/-- `LDA z,X` ($B5), R200. -/
def execLdaZpX (z : Byte) (s : State) : Host.Outcome State Fault Refusal := .next (s.loadA (.mem (.zpX z)))

/-- `LDA a` ($AD), R200. -/
def execLdaAbs (a : Word) (s : State) : Host.Outcome State Fault Refusal := .next (s.loadA (.mem (.abs a)))

/-- `LDA a,X` ($BD), R200. -/
def execLdaAbsX (a : Word) (s : State) : Host.Outcome State Fault Refusal := .next (s.loadA (.mem (.absX a)))

/-- `LDA a,Y` ($B9), R200. -/
def execLdaAbsY (a : Word) (s : State) : Host.Outcome State Fault Refusal := .next (s.loadA (.mem (.absY a)))

/-- `LDA (z,X)` ($A1), R200. -/
def execLdaIndX (z : Byte) (s : State) : Host.Outcome State Fault Refusal := .next (s.loadA (.mem (.indX z)))

/-- `LDA (z),Y` ($B1), R200. -/
def execLdaIndY (z : Byte) (s : State) : Host.Outcome State Fault Refusal := .next (s.loadA (.mem (.indY z)))

/-- `LDX #v` ($A2), R201. -/
def execLdxImm (v : Byte) (s : State) : Host.Outcome State Fault Refusal := .next (s.loadX (.imm v))

/-- `LDX z` ($A6), R201. -/
def execLdxZp (z : Byte) (s : State) : Host.Outcome State Fault Refusal := .next (s.loadX (.mem (.zp z)))

/-- `LDX z,Y` ($B6), R201. -/
def execLdxZpY (z : Byte) (s : State) : Host.Outcome State Fault Refusal := .next (s.loadX (.mem (.zpY z)))

/-- `LDX a` ($AE), R201. -/
def execLdxAbs (a : Word) (s : State) : Host.Outcome State Fault Refusal := .next (s.loadX (.mem (.abs a)))

/-- `LDX a,Y` ($BE), R201. -/
def execLdxAbsY (a : Word) (s : State) : Host.Outcome State Fault Refusal := .next (s.loadX (.mem (.absY a)))

/-- `LDY #v` ($A0), R202. -/
def execLdyImm (v : Byte) (s : State) : Host.Outcome State Fault Refusal := .next (s.loadY (.imm v))

/-- `LDY z` ($A4), R202. -/
def execLdyZp (z : Byte) (s : State) : Host.Outcome State Fault Refusal := .next (s.loadY (.mem (.zp z)))

/-- `LDY z,X` ($B4), R202. -/
def execLdyZpX (z : Byte) (s : State) : Host.Outcome State Fault Refusal := .next (s.loadY (.mem (.zpX z)))

/-- `LDY a` ($AC), R202. -/
def execLdyAbs (a : Word) (s : State) : Host.Outcome State Fault Refusal := .next (s.loadY (.mem (.abs a)))

/-- `LDY a,X` ($BC), R202. -/
def execLdyAbsX (a : Word) (s : State) : Host.Outcome State Fault Refusal := .next (s.loadY (.mem (.absX a)))

/-- `STA z` ($85), R203. -/
def execStaZp (z : Byte) (s : State) : Host.Outcome State Fault Refusal := .next (s.store (.zp z) s.a)

/-- `STA z,X` ($95), R203. -/
def execStaZpX (z : Byte) (s : State) : Host.Outcome State Fault Refusal := .next (s.store (.zpX z) s.a)

/-- `STA a` ($8D), R203. -/
def execStaAbs (a : Word) (s : State) : Host.Outcome State Fault Refusal := .next (s.store (.abs a) s.a)

/-- `STA a,X` ($9D), R203. -/
def execStaAbsX (a : Word) (s : State) : Host.Outcome State Fault Refusal := .next (s.store (.absX a) s.a)

/-- `STA a,Y` ($99), R203. -/
def execStaAbsY (a : Word) (s : State) : Host.Outcome State Fault Refusal := .next (s.store (.absY a) s.a)

/-- `STA (z,X)` ($81), R203. -/
def execStaIndX (z : Byte) (s : State) : Host.Outcome State Fault Refusal := .next (s.store (.indX z) s.a)

/-- `STA (z),Y` ($91), R203. -/
def execStaIndY (z : Byte) (s : State) : Host.Outcome State Fault Refusal := .next (s.store (.indY z) s.a)

/-- `STX z` ($86), R204. -/
def execStxZp (z : Byte) (s : State) : Host.Outcome State Fault Refusal := .next (s.store (.zp z) s.x)

/-- `STX z,Y` ($96), R204. -/
def execStxZpY (z : Byte) (s : State) : Host.Outcome State Fault Refusal := .next (s.store (.zpY z) s.x)

/-- `STX a` ($8E), R204. -/
def execStxAbs (a : Word) (s : State) : Host.Outcome State Fault Refusal := .next (s.store (.abs a) s.x)

/-- `STY z` ($84), R205. -/
def execStyZp (z : Byte) (s : State) : Host.Outcome State Fault Refusal := .next (s.store (.zp z) s.y)

/-- `STY z,X` ($94), R205. -/
def execStyZpX (z : Byte) (s : State) : Host.Outcome State Fault Refusal := .next (s.store (.zpX z) s.y)

/-- `STY a` ($8C), R205. -/
def execStyAbs (a : Word) (s : State) : Host.Outcome State Fault Refusal := .next (s.store (.abs a) s.y)

/-- `TAX` ($AA), R206. -/
def execTax (s : State) : Host.Outcome State Fault Refusal := .next (s.tax)

/-- `TAY` ($A8), R207. -/
def execTay (s : State) : Host.Outcome State Fault Refusal := .next (s.tay)

/-- `TXA` ($8A), R208. -/
def execTxa (s : State) : Host.Outcome State Fault Refusal := .next (s.txa)

/-- `TYA` ($98), R209. -/
def execTya (s : State) : Host.Outcome State Fault Refusal := .next (s.tya)

/-- `TSX` ($BA), R210. -/
def execTsx (s : State) : Host.Outcome State Fault Refusal := .next (s.tsx)

/-- `TXS` ($9A), R211. -/
def execTxs (s : State) : Host.Outcome State Fault Refusal := .next (s.txs)

/-- `PHA` ($48), R212. -/
def execPha (s : State) : Host.Outcome State Fault Refusal := .next (s.pha)

/-- `PHP` ($08), R213. -/
def execPhp (s : State) : Host.Outcome State Fault Refusal := .next (s.php)

/-- `PLA` ($68), R214. -/
def execPla (s : State) : Host.Outcome State Fault Refusal := .next (s.pla)

/-- `PLP` ($28), R215. -/
def execPlp (s : State) : Host.Outcome State Fault Refusal := .next (s.plp)

end Sys2Proof.Machine
end

