-- ==== Sys2Proof/Machine/Pass.lean ====
section
/-! DEFINITION. One pass of the execute loop: an interrupt entry if one is due, then one instruction (60_exceptions.md R300,
R302, R303); and the places `withFetchWord` uses. -/

namespace Sys2Proof.Machine

/-- One more completed instruction (10_state.md R23). -/
def State.countInstruction (s : State) : State := s.setInstructionCount (s.instructionCount + 1)

/-- `step()` of R302: fetch, then the rule of IR; an illegal opcode raises FatalError (R303). -/
def runInstruction (s : State) : Host.Outcome State Fault Refusal :=
  let f := s.fetchInstruction
  match decode f.1 with
  | .error _ => .next (f.2.raiseFatal s.pc)
  | .ok (i, _) =>
    match exec i f.2 with
    | .next t => .next t.countInstruction
    | .fault r => .fault r
    | .refused r => .refused r

/-- One pass of the loop of R300 after its checks: at most one interrupt entry, then one instruction. -/
def pass (s : State) : Host.Outcome State Fault Refusal := runInstruction s.serviceInterrupt

/-- `execution_status.StopExecution <- 0`, the entry of `execute` (R300, R301). -/
def State.clearStop (s : State) : State := s.setSys (s.sys.setStatus { s.sys.status with stop := false })

/-! ## Placing an instruction (assumption log 27) -/

/-- The attachment order (20_memory.md R65). -/
def attachOrder : List DeviceId := [.riot, .tia, .cart]

/-- Every variant maps these window offsets to ROM and puts no hotspot in them (20_memory.md R96 to R109). -/
def plainRom (p : Word) : Bool :=
  let a := busAddr p
  a.getLsbD 12 && decide (0xC00 ≤ windowOffset a) && decide (windowOffset a ≤ 0xFBD)

/-- Where the next instruction is placed: PC where the window is plain ROM, else $FC00. -/
def fetchPlace (s : State) : Word := if plainRom s.pc then s.pc else 0xFC00

/-- The cartridge with byte `v` at CPU address `p` of its current mapping. -/
def Cart.place (p : Word) (v : Byte) (c : Cart) : Cart := (c.patch (windowOffset (busAddr p)) v).getD c

end Sys2Proof.Machine
end

