-- ==== Sys2Proof/Machine/Step.lean ====
section
/-! DEFINITION. One step: `execute(1)` (60_exceptions.md R300, R302, R319), and where an instruction is stored to be fetched
next. -/

namespace Sys2Proof.Machine

/-- One step of the machine is `execute(1)` (R319; assumption log 10). With FatalError set nothing runs (R304). -/
def step (s : State) : Host.Outcome State Fault Refusal :=
  if s.sys.status.fatal then .fault .fatalErrorHalt else pass s.clearStop

/-! ## Placing an instruction (assumption log 27) -/

/-- `s` with the instruction whose bits are `w` (those above `nbits` zero) where `step` fetches next: its bytes in the ROM
image, PC at them, the cartridge attached, no FatalError or pending interrupt before it, FE disarmed. -/
def State.withFetchWord (s : State) (nbits w : Nat) : State :=
  let p := fetchPlace s
  let c := (((s.sys.cart.place p (tableByte nbits w 0)).place (p + 1) (tableByte nbits w 1)).place (p + 2)
    (tableByte nbits w 2))
  (s.setPC p).setSys
    { s.sys with
      cart := { c with feArmed := false }
      devices := if s.sys.devices.contains .cart then s.sys.devices else attachOrder
      status := { s.sys.status with fatal := false, irq := false, nmi := false } }

end Sys2Proof.Machine
end

