-- ==== Sys2Proof/Machine/HostCalls.lean ====
section
/-! DEFINITION. The host interface but save and load: attach, reset, execute, stop, interrupts, locks, patch, the cycle
rebase and the audio controls (70_reset_and_hazards.md R400 to R406, R440; 20_memory.md R65, R67, R91, R94; 60_exceptions.md
R300, R301, R304, R307, R308, R360, R365, R368). -/

namespace Sys2Proof.Machine

/-! ## Reset (70_reset_and_hazards.md R400 to R402) -/

/-- `d.reset()` (R401). -/
def System.resetDevice (y : System) (d : DeviceId) : System :=
  match d with
  | .riot => y.setRiot (y.riot.reset y.cfg.resets)
  | .tia => y.setAudio y.audio.reset
  | .cart => y.setCart (y.cart.reset y.cfg.resets)
  | .null => y

/-- The flags a CPU reset leaves: I set, the others draws (R402). -/
def resetFlags (r : ResetDraws) : Flags := { n := r.n, v := r.v, b := r.b, d := r.d, i := true, z := r.z, c := r.c }

/-- `cpu.reset()` (R402). DESIGN CHOICE (assumption log 40): the draws of every reset of a run, the devices' among them, are
those of `cfg.resets`, so two resets leave equal values. -/
def State.cpuReset (s : State) : State :=
  let r := s.sys.cfg.resets
  let s : State :=
    { s with
      a := r.a, x := r.x, y := r.y, ir := r.ir, sp := s.sys.cfg.spReset.toByte, flags := resetFlags r
      sys := s.sys.setStatus { stop := false, fatal := false, irq := false, nmi := false } }
  let p := s.read16 resetVector
  p.2.setPC p.1

/-- `System.reset()`: the devices in attachment order, the CPU, then `cycles <- 0` (R400). -/
def State.systemReset (s : State) : State :=
  let s := s.setSys (s.sys.devices.foldl System.resetDevice s.sys)
  let s := s.cpuReset
  s.setSys (s.sys.setCycles 0)

/-! ## Attachment and power-up (20_memory.md R65; 70_reset_and_hazards.md R406) -/

/-- A device to attach; a cartridge comes with its image. -/
inductive Device where
  | riot
  | tia
  | cart (c : Cart)
deriving DecidableEq, Repr, Inhabited

/-- `attach(device)`: append it; the page table follows the list (R65). A cartridge is a freshly constructed one, so its
`bank_locked` starts at 0 (70_reset_and_hazards.md R406). DESIGN CHOICE (assumption log 38): the machine holds one cartridge,
so attaching a second one replaces the first. -/
def System.attach (d : Device) (y : System) : System :=
  match d with
  | .riot => { y with devices := y.devices ++ [.riot] }
  | .tia => { y with devices := y.devices ++ [.tia] }
  | .cart c => { y with devices := y.devices ++ [.cart], cart := { c with bankLocked := false } }

/-- A freshly constructed machine with nothing attached: counts, locks and mute 0, volume as configured (R406). -/
def State.constructed (cfg : Config) : State :=
  { State.reset with
    sys := { State.reset.sys with devices := [], cfg := cfg, audio := { State.reset.sys.audio with volume := cfg.volume } } }

/-- Power-up: construct, attach RIOT, TIA and the cartridge, reset (R65, R406). -/
def State.powerUp (cfg : Config) (c : Cart) : State :=
  let s := State.constructed cfg
  (s.setSys (((s.sys.attach .riot).attach .tia).attach (.cart c))).systemReset

/-! ## Execution control (60_exceptions.md R300, R301, R304, R307, R308) -/

/-- The loop of `execute`, `left = n - count` (R300): the checks in order, then one pass. -/
def executeLoop : Nat → State → Host.Outcome (Bool × State) Fault Refusal
  | left, s =>
    if s.sys.status.fatal then .next (false, s)
    else if s.sys.status.stop then .next (true, s)
    else
      match left with
      | 0 => .next (true, s)
      | left + 1 =>
        match pass s with
        | .next t => executeLoop left t
        | .fault r => .fault r
        | .refused r => .refused r

/-- `execute(n)`: its result and the state it leaves (R300). -/
def execute (n : Nat) (s : State) : Host.Outcome (Bool × State) Fault Refusal := executeLoop n s.clearStop

/-- `stop()` (R301). -/
def State.stop (s : State) : State := s.setSys (s.sys.setStatus { s.sys.status with stop := true })

/-- `irq()` (R307). -/
def State.irq (s : State) : State := s.setSys (s.sys.setStatus { s.sys.status with irq := true })

/-- `nmi()` (R308). -/
def State.nmi (s : State) : State := s.setSys (s.sys.setStatus { s.sys.status with nmi := true })

/-- `fatalError()` (R304). -/
def State.fatalError (s : State) : Bool := s.sys.status.fatal

/-! ## Bus and cartridge controls -/

/-- `get_data_bus_state()` (10_state.md R31). -/
def State.dataBusState (s : State) : Byte := s.sys.dataBus

/-- `data_bus_locked <- b` (10_state.md R32). -/
def State.lockDataBus (b : Bool) (s : State) : State := s.setSys { s.sys with dataBusLocked := b }

/-- `bank_locked <- b` (20_memory.md R91). -/
def State.lockBank (b : Bool) (s : State) : State := s.setSys (s.sys.setCart { s.sys.cart with bankLocked := b })

/-- `bank(b)` (20_memory.md R91). -/
def State.bank (b : Nat) (s : State) : State := s.setSys (s.sys.setCart (s.sys.cart.bank b))

/-- `patch(addr, val)`: whether it was applied, and the state (20_memory.md R94). -/
def State.patch (addr : Word) (v : Byte) (s : State) : Bool × State :=
  if (busAddr addr).getLsbD 12 then
    match s.sys.cart.patch (windowOffset (busAddr addr)) v with
    | some c => (true, s.setSys (s.sys.setCart c))
    | none => (false, s)
  else (false, s)

/-- `get_image()` (20_memory.md R94). -/
def State.getImage (s : State) : List Byte := s.sys.cart.image

/-- `systemCyclesReset()` of one device with `c` the value of `cycles` (20_memory.md R67). -/
def System.rebaseDevice (c : U32) (y : System) (d : DeviceId) : System :=
  match d with
  | .riot => y.setRiot (y.riot.systemCyclesReset c)
  | .tia => y.setAudio (y.audio.systemCyclesReset c)
  | .cart => y
  | .null => y

/-- `reset_cycles()` (20_memory.md R67). -/
def System.resetCycles (y : System) : System := (y.devices.foldl (System.rebaseDevice y.cycles) y).setCycles 0

/-! ## Audio controls -/

/-- The callback runs only while sound is enabled and not muted (60_exceptions.md R349, R365, R375). -/
def State.audioCallback (length : Nat) (s : State) : List Byte × State :=
  if soundEnabled s.sys.cfg && !s.sys.audio.muted then
    let r := s.sys.audio.callback s.sys.cfg length
    (r.1, s.setSys (s.sys.setAudio r.2))
  else ([], s)

/-- The sink will ask for a fragment after `writes` more sound writes: an entry of the free schedule (20_memory.md R82;
assumption log 19). -/
def State.requestCallback (writes length : Nat) (s : State) : State :=
  s.setSys (s.sys.setAudio { s.sys.audio with requests := s.sys.audio.requests ++ [{ writes, length }] })

/-- The sink takes the fragments produced since it last did (assumption log 19). -/
def State.takeFragments (s : State) : List (List Byte) × State :=
  (s.sys.audio.fragments, s.setSys (s.sys.setAudio { s.sys.audio with fragments := [] }))

/-- `mute(b)` (60_exceptions.md R365). -/
def State.mute (b : Bool) (s : State) : State := s.setSys (s.sys.setAudio (s.sys.audio.setMuted b))

/-- `setVolume(p)` (60_exceptions.md R368). -/
def State.setVolume (p : Int) (s : State) : State := s.setSys (s.sys.setAudio (s.sys.audio.setVolume p))

end Sys2Proof.Machine
end

