-- ==== Sys2Proof/Machine/SaveState.lean ====
section
/-! DEFINITION. Save and load (70_reset_and_hazards.md R441 to R446; 20_memory.md R95, R125; 60_exceptions.md R369, R371;
assumption logs 17 and 18), and the host's calls as transitions (R440). -/

namespace Sys2Proof.Machine

/-! ## Primitive encoding (R441) -/

/-- An int: 32 bits, little-endian. -/
def putInt (v : U32) : List Byte := [v.extractLsb' 0 8, v.extractLsb' 8 8, v.extractLsb' 16 8, v.extractLsb' 24 8]

/-- A small natural number as an int. -/
def putNat (n : Nat) : List Byte := putInt (BitVec.ofNat 32 n)

/-- A byte as an int. -/
def putByteInt (v : Byte) : List Byte := putInt (v.setWidth 32)

/-- A bool: one byte, 0 or 1. -/
def putBool (b : Bool) : List Byte := [if b then 1 else 0]

/-- A string: its length as an int, then its bytes. -/
def putString (bs : List Byte) : List Byte := putNat bs.length ++ bs

/-- A byte array: its count, then one int per byte. -/
def putBytes (bs : List Byte) : List Byte := putNat bs.length ++ bs.flatMap putByteInt

/-- Reading one item off a stream; `none` at a truncation or mismatch (60_exceptions.md R371). -/
abbrev Reader (α : Type) := List Byte → Option (α × List Byte)

def getInt : Reader U32
  | b0 :: b1 :: b2 :: b3 :: bs => some (b3 ++ b2 ++ b1 ++ b0, bs)
  | _ => none

def getNat : Reader Nat := fun bs => (getInt bs).map fun r => (r.1.toNat, r.2)

def getByteInt : Reader Byte := fun bs => (getInt bs).map fun r => (r.1.setWidth 8, r.2)

def getBool : Reader Bool
  | b :: bs => some (b != 0, bs)
  | [] => none

/-- `n` raw bytes. -/
def getRaw (n : Nat) : Reader (List Byte) := fun bs => if n ≤ bs.length then some (bs.take n, bs.drop n) else none

def getString : Reader (List Byte) := fun bs => do
  let (n, bs) ← getNat bs
  getRaw n bs

/-- `n` bytes, one int each. -/
def getByteInts : Nat → Reader (List Byte)
  | 0, bs => some ([], bs)
  | n + 1, bs => do
    let (b, bs) ← getByteInt bs
    let (r, bs) ← getByteInts n bs
    some (b :: r, bs)

/-- A byte array of exactly `n` bytes. -/
def getBytes (n : Nat) : Reader (List Byte) := fun bs => do
  let (k, bs) ← getNat bs
  if k = n then getByteInts n bs else none

/-- The expected string, or a mismatch (60_exceptions.md R371). -/
def expectString (name : List Byte) : Reader Unit := fun bs => do
  let (s, bs) ← getString bs
  if s = name then some ((), bs) else none

/-- ASCII characters as bytes. -/
def ascii (cs : List Char) : List Byte := cs.map fun c => BitVec.ofNat 8 c.toNat

/-! ## Byte stores -/

/-- The `n` bytes of a store from index 0. -/
def Memory.bytes (n : Nat) (m : Memory) : List Byte := (List.range n).map m.read

/-- The store that holds `bs` from index `k` on. -/
def Memory.ofBytes : Nat → List Byte → Memory
  | _, [] => []
  | k, b :: bs => if b = Memory.fill then Memory.ofBytes (k + 1) bs else (k, b) :: Memory.ofBytes (k + 1) bs

/-! ## Names (20_memory.md R125; 70_reset_and_hazards.md R442) -/

/-- The variant's save tag. -/
def CartVariant.tag : CartVariant → List Byte
  | .c2K => ascii ['2', 'K']
  | .c4K => ascii ['4', 'K']
  | .f8 => ascii ['F', '8']
  | .f6 => ascii ['F', '6']
  | .f4 => ascii ['F', '4']
  | .f8sc => ascii ['F', '8', 'S', 'C']
  | .f6sc => ascii ['F', '6', 'S', 'C']
  | .f4sc => ascii ['F', '4', 'S', 'C']
  | .c3F => ascii ['3', 'F']
  | .c3E => ascii ['3', 'E']
  | .e0 => ascii ['E', '0']
  | .e7 => ascii ['E', '7']
  | .ua => ascii ['U', 'A']
  | .cv => ascii ['C', 'V']
  | .fe => ascii ['F', 'E']

def tagState : List Byte := ascii ['S', 't', 'a', 't', 'e']
def tagCPU : List Byte := ascii ['M', '6', '5', '0', '2']
def tagRiot : List Byte := ascii ['M', '6', '5', '3', '2']
def tagTia : List Byte := ascii ['T', 'I', 'A']
def tagSound : List Byte := ascii ['T', 'I', 'A', 'S', 'o', 'u', 'n', 'd']
/-- The NullDevice's name. DESIGN CHOICE (assumption log 39): the device contract asks for one (20_memory.md R68) and no rule
gives it. -/
def tagNull : List Byte := ascii ['N', 'U', 'L', 'L']

/-! ## RIOT payload (R444) -/

def Riot.save (r : Riot) : List Byte :=
  putString tagRiot ++ putBytes (Memory.bytes 128 r.ram) ++ putByteInt r.dra ++ putByteInt r.ddra ++ putByteInt r.drb
    ++ putByteInt r.ddrb ++ putByteInt r.timerN ++ putNat r.timerInterval.shift ++ putInt r.timerSetCycle
    ++ putBool r.timerFlagCleared ++ putBool r.timerIrqEn ++ putBool r.pa7IrqEn ++ putBool r.pa7EdgePos
    ++ putBool r.pa7Flag

/-- The interval of a saved `timer_shift`. -/
def intervalOfShift (n : Nat) : Option Interval :=
  if n = 0 then some .i1 else if n = 3 then some .i8 else if n = 6 then some .i64 else if n = 10 then some .i1024 else none

def Riot.load : Reader Riot := fun bs => do
  let (_, bs) ← expectString tagRiot bs
  let (ram, bs) ← getBytes 128 bs
  let (dra, bs) ← getByteInt bs
  let (ddra, bs) ← getByteInt bs
  let (drb, bs) ← getByteInt bs
  let (ddrb, bs) ← getByteInt bs
  let (timerN, bs) ← getByteInt bs
  let (shift, bs) ← getNat bs
  let timerInterval ← intervalOfShift shift
  let (timerSetCycle, bs) ← getInt bs
  let (timerFlagCleared, bs) ← getBool bs
  let (timerIrqEn, bs) ← getBool bs
  let (pa7IrqEn, bs) ← getBool bs
  let (pa7EdgePos, bs) ← getBool bs
  let (pa7Flag, bs) ← getBool bs
  some ({ ram := Memory.ofBytes 0 ram, dra, ddra, drb, ddrb, timerN, timerInterval, timerSetCycle, timerFlagCleared,
          timerIrqEn, pa7IrqEn, pa7EdgePos, pa7Flag }, bs)

/-! ## Cartridge payload (20_memory.md R95, R444) -/

/-- The variant's extra bank registers. -/
def Cart.saveRegs (c : Cart) : List Byte :=
  match c.variant with
  | .c3E => putNat c.ramBank ++ putBool c.ramSelected
  | .e0 => putNat c.currentBank ++ putNat c.slot1 ++ putNat c.slot2 ++ putNat 7
  | .e7 => putNat c.currentBank ++ putNat c.ramBank
  | .fe => putBool c.feArmed
  | _ => []

/-- On-cart RAM, where the variant has some. -/
def Cart.saveRam (c : Cart) : List Byte :=
  if c.variant.ramSize = 0 then [] else putBytes (Memory.bytes c.variant.ramSize c.ram)

def Cart.save (c : Cart) : List Byte := putString c.variant.tag ++ putNat c.currentBank ++ c.saveRegs ++ c.saveRam

/-- The extra registers into `c`; a requested bank wraps (20_memory.md R91). DESIGN CHOICE (assumption log 18): E0's fixed fourth
slot is read and dropped whatever it is, and where the saved `current_bank` and E0's slot 0 or E7's `low_bank` differ, the
later one in the stream stands. -/
def Cart.loadRegs (c : Cart) : Reader Cart := fun bs =>
  match c.variant with
  | .c3E => do
    let (ramBank, bs) ← getNat bs
    let (ramSelected, bs) ← getBool bs
    some ({ c with ramBank := ramBank % 32, ramSelected }, bs)
  | .e0 => do
    let (s0, bs) ← getNat bs
    let (s1, bs) ← getNat bs
    let (s2, bs) ← getNat bs
    let (_, bs) ← getNat bs
    some ({ c with currentBank := s0 % 8, slot1 := s1 % 8, slot2 := s2 % 8 }, bs)
  | .e7 => do
    let (low, bs) ← getNat bs
    let (ramBank, bs) ← getNat bs
    some ({ c with currentBank := low % 8, ramBank := ramBank % 4 }, bs)
  | .fe => do
    let (feArmed, bs) ← getBool bs
    some ({ c with feArmed }, bs)
  | _ => some (c, bs)

def Cart.loadRam (c : Cart) : Reader Cart := fun bs =>
  if c.variant.ramSize = 0 then some (c, bs)
  else do
    let (ram, bs) ← getBytes c.variant.ramSize bs
    some ({ c with ram := Memory.ofBytes 0 ram }, bs)

def Cart.load (c : Cart) : Reader Cart := fun bs => do
  let (_, bs) ← expectString c.variant.tag bs
  let (bank, bs) ← getNat bs
  let (c, bs) ← ({ c with currentBank := bank % c.bankCount } : Cart).loadRegs bs
  c.loadRam bs

/-! ## TIA payload (60_exceptions.md R369; the video collaborator's is empty, assumption log 17) -/

def Audio.save (au : Audio) : List Byte :=
  putString tagTia ++ putString tagSound ++ putNat au.ch0.audc.toNat ++ putNat au.ch1.audc.toNat
    ++ putNat au.ch0.audf.toNat ++ putNat au.ch1.audf.toNat ++ putNat au.ch0.audv.toNat ++ putNat au.ch1.audv.toNat
    ++ putInt au.lastSetCycle

/-- Clear the queue, apply `synth_set` to the six registers in order, set the stamp (R369). -/
def Audio.load (au : Audio) : Reader Audio := fun bs => do
  let (_, bs) ← expectString tagTia bs
  let (_, bs) ← expectString tagSound bs
  let (c0, bs) ← getByteInt bs
  let (c1, bs) ← getByteInt bs
  let (f0, bs) ← getByteInt bs
  let (f1, bs) ← getByteInt bs
  let (v0, bs) ← getByteInt bs
  let (v1, bs) ← getByteInt bs
  let (last, bs) ← getInt bs
  let au : Audio := { au with queue := [] }
  let au := au.synthSet 0x15 c0
  let au := au.synthSet 0x16 c1
  let au := au.synthSet 0x17 f0
  let au := au.synthSet 0x18 f1
  let au := au.synthSet 0x19 v0
  let au := au.synthSet 0x1A v1
  some ({ au with lastSetCycle := last }, bs)

/-! ## CPU payload (R443) -/

/-- `execution_status` as a number (10_state.md R29). -/
def ExecStatus.toNat (e : ExecStatus) : Nat :=
  (if e.stop then 1 else 0) + (if e.fatal then 2 else 0) + (if e.irq then 4 else 0) + (if e.nmi then 8 else 0)

/-- The four bits of a saved `execution_status`; other bits are always 0 (10_state.md R29). -/
def ExecStatus.ofNat (n : Nat) : ExecStatus :=
  { stop := n.testBit 0, fatal := n.testBit 1, irq := n.testBit 2, nmi := n.testBit 3 }

def State.saveCPU (s : State) : List Byte :=
  putString tagCPU ++ putByteInt s.a ++ putByteInt s.x ++ putByteInt s.y ++ putByteInt s.sp ++ putByteInt s.ir
    ++ putNat s.pc.toNat ++ putBool s.flags.n ++ putBool s.flags.v ++ putBool s.flags.b ++ putBool s.flags.d
    ++ putBool s.flags.i ++ putBool (!s.flags.z) ++ putBool s.flags.c ++ putNat s.sys.status.toNat
    ++ putInt s.instructionCount ++ putBool s.lastAccessWasRead

def State.loadCPU (s : State) : Reader State := fun bs => do
  let (_, bs) ← expectString tagCPU bs
  let (a, bs) ← getByteInt bs
  let (x, bs) ← getByteInt bs
  let (y, bs) ← getByteInt bs
  let (sp, bs) ← getByteInt bs
  let (ir, bs) ← getByteInt bs
  let (pc, bs) ← getNat bs
  let (n, bs) ← getBool bs
  let (v, bs) ← getBool bs
  let (b, bs) ← getBool bs
  let (d, bs) ← getBool bs
  let (i, bs) ← getBool bs
  let (notZ, bs) ← getBool bs
  let (c, bs) ← getBool bs
  let (status, bs) ← getNat bs
  let (instructionCount, bs) ← getInt bs
  let (lastAccessWasRead, bs) ← getBool bs
  some ({ a, x, y, sp, ir, pc := BitVec.ofNat 16 pc, flags := { n, v, b, d, i, z := !notZ, c }, instructionCount,
          lastAccessWasRead, sys := s.sys.setStatus (ExecStatus.ofNat status) }, bs)

/-! ## The whole blob (R442, R445) -/

/-- A device's name. -/
def System.deviceName (y : System) : DeviceId → List Byte
  | .riot => tagRiot
  | .tia => tagTia
  | .cart => y.cart.variant.tag
  | .null => tagNull

/-- A device's payload. -/
def System.saveDevice (y : System) : DeviceId → List Byte
  | .riot => y.riot.save
  | .tia => y.audio.save
  | .cart => y.cart.save
  | .null => []

/-- `save()` (R442). -/
def State.save (s : State) : List Byte :=
  putString tagState ++ putString s.sys.cart.romKey ++ putNat s.sys.devices.length
    ++ s.sys.devices.flatMap (fun d => putString (s.sys.deviceName d) ++ s.sys.saveDevice d)
    ++ s.saveCPU ++ putInt s.sys.cycles

/-- A device's payload into the system. -/
def System.loadDevice (y : System) (d : DeviceId) : Reader System := fun bs =>
  match d with
  | .riot => (Riot.load bs).map fun r => (y.setRiot r.1, r.2)
  | .tia => (y.audio.load bs).map fun r => (y.setAudio r.1, r.2)
  | .cart => (y.cart.load bs).map fun r => (y.setCart r.1, r.2)
  | .null => some (y, bs)

/-- The attached devices in order, each with its name checked (R445). -/
def System.loadDevices : List DeviceId → System → Reader System
  | [], y, bs => some (y, bs)
  | d :: ds, y, bs => do
    let (_, bs) ← expectString (y.deviceName d) bs
    let (y, bs) ← y.loadDevice d bs
    System.loadDevices ds y bs

/-- `load(bytes)`: the loaded state, or `none` where load returns false (R445). -/
def State.load (bs : List Byte) (s : State) : Option State := do
  let (_, bs) ← expectString tagState bs
  let (_, bs) ← expectString s.sys.cart.romKey bs
  let (count, bs) ← getNat bs
  if count = s.sys.devices.length then
    let (y, bs) ← System.loadDevices s.sys.devices s.sys bs
    let (t, bs) ← (s.setSys y).loadCPU bs
    let (cycles, _) ← getInt bs
    some (t.setSys (t.sys.setCycles cycles))
  else none

/-- FREE VALUE: the state after a failed load, every field a draw (60_exceptions.md R371, 93 U18; assumption log 18). -/
opaque failedLoad : Nat → State

/-! ## Host calls as transitions (R440) -/

/-- The host operations that may change the state. -/
inductive HostCall where
  | attach (d : Device)
  | reset
  | execute (n : Nat)
  | stop
  | irq
  | nmi
  | peek (addr : Word)
  | poke (addr : Word) (v : Byte)
  | lockDataBus (b : Bool)
  | lockBank (b : Bool)
  | bank (b : Nat)
  | patch (addr : Word) (v : Byte)
  | resetCycles
  | audioCallback (length : Nat)
  | requestCallback (writes length : Nat)
  | takeFragments
  | mute (b : Bool)
  | setVolume (p : Int)
  | load (bytes : List Byte)
deriving DecidableEq, Repr, Inhabited

/-- What a host call between two steps does to the state. -/
def HostCall.apply (h : HostCall) (s : State) : Host.Outcome State Fault Refusal :=
  match h with
  | .attach d => .next (s.setSys (s.sys.attach d))
  | .reset => .next s.systemReset
  | .execute n =>
    match Machine.execute n s with
    | .next r => .next r.2
    | .fault r => .fault r
    | .refused r => .refused r
  | .stop => .next s.stop
  | .irq => .next s.irq
  | .nmi => .next s.nmi
  | .peek addr => .next (s.setSys (s.sys.peek addr).2)
  | .poke addr v => .next (s.setSys (s.sys.poke addr v))
  | .lockDataBus b => .next (s.lockDataBus b)
  | .lockBank b => .next (s.lockBank b)
  | .bank b => .next (s.bank b)
  | .patch addr v => .next (s.patch addr v).2
  | .resetCycles => .next (s.setSys s.sys.resetCycles)
  | .audioCallback n => .next (s.audioCallback n).2
  | .requestCallback k n => .next (s.requestCallback k n)
  | .takeFragments => .next s.takeFragments.2
  | .mute b => .next (s.mute b)
  | .setVolume p => .next (s.setVolume p)
  | .load bytes => .next ((s.load bytes).getD (failedLoad s.sys.draws))

end Sys2Proof.Machine
end

