-- ==== Sys2Proof/Machine/Timing.lean ====
section
/-! DEFINITION. The cost table and its penalties (70_reset_and_hazards.md R411 to R414), as a table of its own: the meanings
spend their cycles access by access (R416), and claims compare the two. -/

namespace Sys2Proof.Machine

/-- Processor cycles without penalties (R411). -/
def Instr.baseCycles : Instr → Nat
  | .ldaImm _ => 2
  | .ldaZp _ => 3
  | .ldaZpX _ => 4
  | .ldaAbs _ => 4
  | .ldaAbsX _ => 4
  | .ldaAbsY _ => 4
  | .ldaIndX _ => 6
  | .ldaIndY _ => 5
  | .ldxImm _ => 2
  | .ldxZp _ => 3
  | .ldxZpY _ => 4
  | .ldxAbs _ => 4
  | .ldxAbsY _ => 4
  | .ldyImm _ => 2
  | .ldyZp _ => 3
  | .ldyZpX _ => 4
  | .ldyAbs _ => 4
  | .ldyAbsX _ => 4
  | .staZp _ => 3
  | .staZpX _ => 4
  | .staAbs _ => 4
  | .staAbsX _ => 5
  | .staAbsY _ => 5
  | .staIndX _ => 6
  | .staIndY _ => 6
  | .stxZp _ => 3
  | .stxZpY _ => 4
  | .stxAbs _ => 4
  | .styZp _ => 3
  | .styZpX _ => 4
  | .styAbs _ => 4
  | .tax => 2
  | .tay => 2
  | .txa => 2
  | .tya => 2
  | .tsx => 2
  | .txs => 2
  | .pha => 3
  | .php => 3
  | .pla => 4
  | .plp => 4
  | .adcImm _ => 2
  | .adcZp _ => 3
  | .adcZpX _ => 4
  | .adcAbs _ => 4
  | .adcAbsX _ => 4
  | .adcAbsY _ => 4
  | .adcIndX _ => 6
  | .adcIndY _ => 5
  | .sbcImm _ => 2
  | .sbcZp _ => 3
  | .sbcZpX _ => 4
  | .sbcAbs _ => 4
  | .sbcAbsX _ => 4
  | .sbcAbsY _ => 4
  | .sbcIndX _ => 6
  | .sbcIndY _ => 5
  | .andImm _ => 2
  | .andZp _ => 3
  | .andZpX _ => 4
  | .andAbs _ => 4
  | .andAbsX _ => 4
  | .andAbsY _ => 4
  | .andIndX _ => 6
  | .andIndY _ => 5
  | .oraImm _ => 2
  | .oraZp _ => 3
  | .oraZpX _ => 4
  | .oraAbs _ => 4
  | .oraAbsX _ => 4
  | .oraAbsY _ => 4
  | .oraIndX _ => 6
  | .oraIndY _ => 5
  | .eorImm _ => 2
  | .eorZp _ => 3
  | .eorZpX _ => 4
  | .eorAbs _ => 4
  | .eorAbsX _ => 4
  | .eorAbsY _ => 4
  | .eorIndX _ => 6
  | .eorIndY _ => 5
  | .cmpImm _ => 2
  | .cmpZp _ => 3
  | .cmpZpX _ => 4
  | .cmpAbs _ => 4
  | .cmpAbsX _ => 4
  | .cmpAbsY _ => 4
  | .cmpIndX _ => 6
  | .cmpIndY _ => 5
  | .cpxImm _ => 2
  | .cpxZp _ => 3
  | .cpxAbs _ => 4
  | .cpyImm _ => 2
  | .cpyZp _ => 3
  | .cpyAbs _ => 4
  | .bitZp _ => 3
  | .bitAbs _ => 4
  | .incZp _ => 5
  | .incZpX _ => 6
  | .incAbs _ => 6
  | .incAbsX _ => 7
  | .decZp _ => 5
  | .decZpX _ => 6
  | .decAbs _ => 6
  | .decAbsX _ => 7
  | .inx => 2
  | .iny => 2
  | .dex => 2
  | .dey => 2
  | .aslAcc => 2
  | .aslZp _ => 5
  | .aslZpX _ => 6
  | .aslAbs _ => 6
  | .aslAbsX _ => 7
  | .lsrAcc => 2
  | .lsrZp _ => 5
  | .lsrZpX _ => 6
  | .lsrAbs _ => 6
  | .lsrAbsX _ => 7
  | .rolAcc => 2
  | .rolZp _ => 5
  | .rolZpX _ => 6
  | .rolAbs _ => 6
  | .rolAbsX _ => 7
  | .rorAcc => 2
  | .rorZp _ => 5
  | .rorZpX _ => 6
  | .rorAbs _ => 6
  | .rorAbsX _ => 7
  | .bcc _ => 2
  | .bcs _ => 2
  | .beq _ => 2
  | .bmi _ => 2
  | .bne _ => 2
  | .bpl _ => 2
  | .bvc _ => 2
  | .bvs _ => 2
  | .jmpAbs _ => 3
  | .jmpInd _ => 5
  | .jsr _ => 6
  | .rts => 6
  | .brk => 7
  | .rti => 6
  | .nop => 2
  | .clc => 2
  | .cld => 2
  | .cli => 2
  | .clv => 2
  | .sec => 2
  | .sed => 2
  | .sei => 2

/-- The read-class mnemonics that pay for a page crossing (R412). -/
def Mnemonic.paysCrossing : Mnemonic → Bool
  | .LDA => true
  | .LDX => true
  | .LDY => true
  | .STA => false
  | .STX => false
  | .STY => false
  | .TAX => false
  | .TAY => false
  | .TXA => false
  | .TYA => false
  | .TSX => false
  | .TXS => false
  | .PHA => false
  | .PHP => false
  | .PLA => false
  | .PLP => false
  | .ADC => true
  | .SBC => true
  | .AND => true
  | .ORA => true
  | .EOR => true
  | .CMP => true
  | .CPX => false
  | .CPY => false
  | .BIT => false
  | .INC => false
  | .DEC => false
  | .INX => false
  | .INY => false
  | .DEX => false
  | .DEY => false
  | .ASL => false
  | .LSR => false
  | .ROL => false
  | .ROR => false
  | .BCC => false
  | .BCS => false
  | .BEQ => false
  | .BMI => false
  | .BNE => false
  | .BPL => false
  | .BVC => false
  | .BVS => false
  | .JMP => false
  | .JSR => false
  | .RTS => false
  | .BRK => false
  | .RTI => false
  | .NOP => false
  | .CLC => false
  | .CLD => false
  | .CLI => false
  | .CLV => false
  | .SEC => false
  | .SED => false
  | .SEI => false

/-- The effective address of an AbsX, AbsY or IndY operand lies on another page than its base (30_encoding.md R148, R151). -/
def State.operandCrosses (s : State) (m : MemOperand) : Bool :=
  match m with
  | .absX a => crossed a (a + s.x.setWidth 16)
  | .absY a => crossed a (a + s.y.setWidth 16)
  | .indY z =>
    let base := (s.zeroPagePointer z).1
    crossed base (base + s.y.setWidth 16)
  | .zp _ => false
  | .zpX _ => false
  | .zpY _ => false
  | .abs _ => false
  | .indX _ => false

/-- A branch's condition (42_control_flags.md R260 to R267); false for every other instruction. -/
def Mnemonic.branchTaken (f : Flags) : Mnemonic → Bool
  | .BCC => !f.c
  | .BCS => f.c
  | .BEQ => f.z
  | .BMI => f.n
  | .BNE => !f.z
  | .BPL => !f.n
  | .BVC => !f.v
  | .BVS => f.v
  | _ => false

/-- The cycles of `i` beyond its base cost in state `s`, its bytes fetched: `+p` (R412) and `+b` (R413). -/
def Instr.penalty (i : Instr) (s : State) : Nat :=
  match i.operand with
  | .src (.mem m) => if Mnemonic.paysCrossing i.mnemonic && s.operandCrosses m then 1 else 0
  | .rel d =>
    if Mnemonic.branchTaken s.flags i.mnemonic then (if crossed s.pc (s.pc + displacement d) then 2 else 1) else 0
  | .src (.imm _) => 0
  | .implied => 0
  | .acc => 0
  | .target _ => 0
  | .targetLow _ => 0
  | .ind _ => 0

/-- The cost of `i` in processor cycles (R411 to R413). -/
def Instr.cost (i : Instr) (s : State) : Nat := Instr.baseCycles i + Instr.penalty i s

/-- The cost of an interrupt entry (R414). -/
def interruptCost : Nat := 7

end Sys2Proof.Machine
end

