-- ==== Sys2Proof/Safety.lean ====
section
/-! DEFINITION. Legal configurations and states, and safe runs, in the terms claims use. -/

namespace Sys2Proof.Machine

/-- The parameters are in the ranges of 00_scope.md R6 and 92's OPEN parameter list, and the counter arithmetic of the
down-sampler stays in 32 bits. -/
def Config.wf (cfg : Config) : Bool :=
  decide (0 < cfg.spc) && cfg.frameRate.wf && decide (0 < cfg.frameRate.sig) && (cfg.tables.all WaveTables.wf)
    && decide (0 < cfg.hostRate) && decide (0 < cfg.tiaFreq) && decide (cfg.hostRate + cfg.tiaFreq < 2 ^ 32)
    && 2 ^ Nat.log2 cfg.fragSize == cfg.fragSize

/-- The draws of a reset name canonical RAM contents for the RIOT and for the cartridge's variant. -/
def ResetDraws.wf (v : CartVariant) (r : ResetDraws) : Bool :=
  Memory.wf 128 r.riotRam && Memory.wf v.ramSize r.cartRam

/-- The invariant of the machine: the configuration is in range, the devices are attached in the order of 20_memory.md
R65, the three stores are canonical, the bank state is legal (10_state.md R35), the audio state is legal (R37). -/
def System.inv (y : System) : Bool :=
  Config.wf y.cfg && ResetDraws.wf y.cart.variant y.cfg.resets && y.devices == attachOrder && Memory.wf 128 y.riot.ram
    && y.cart.wf && y.audio.wf

/-- `System.inv` of the machine's system; every value of a CPU register is legal. -/
def State.inv (s : State) : Bool := s.sys.inv

/-- The machine has met no illegal opcode since its last reset or load (60_exceptions.md R304). -/
def State.running (s : State) : Bool := !s.sys.status.fatal

/-- No interrupt is taken before the next instruction (60_exceptions.md R300). -/
def State.noInterrupt (s : State) : Bool := !s.sys.status.nmi && !(s.sys.status.irq && !s.flags.i)

/-! ## What an access leaves alone -/

/-- Every byte of every backing store (RIOT RAM, on-cart RAM, ROM image) but those listed reads in `z` as it does in `y`. -/
def System.BytesKept (ls : List Loc) (y z : System) : Prop := ∀ l, l ∉ ls → z.byteAt l = y.byteAt l

/-- The bank registers `bank_locked` locks (20_memory.md R91) are equal: all but FE's `fe_armed` (assumption log 22). -/
structure Cart.SameBanks (c d : Cart) : Prop where
  currentBank : d.currentBank = c.currentBank
  slot1 : d.slot1 = c.slot1
  slot2 : d.slot2 = c.slot2
  ramBank : d.ramBank = c.ramBank
  ramSelected : d.ramSelected = c.ramSelected

/-- A write of a sound register, as `Audio.set` takes it (60_exceptions.md R345). -/
structure SoundWrite where
  reg : Byte
  value : Byte
  cycle : U32
deriving DecidableEq, Repr, Inhabited

/-- The audio state after sound writes in their order, each with the callbacks scheduled before it. -/
def Audio.writes (cfg : Config) (ws : List SoundWrite) (u : Audio) : Audio :=
  ws.foldl (fun u w => u.set cfg w.reg w.value w.cycle) u

/-- What no bus access of a program changes: configuration and device list, the data bus lock, FatalError and the pending
interrupts, the cartridge's image, key, variant and lock, the bank registers of a locked cartridge, volume and mute. The audio
state changes by `set` alone, with the callbacks scheduled before it. -/
structure System.Steady (y z : System) : Prop where
  cfg : z.cfg = y.cfg
  devices : z.devices = y.devices
  dataBusLocked : z.dataBusLocked = y.dataBusLocked
  fatal : z.status.fatal = y.status.fatal
  irq : z.status.irq = y.status.irq
  nmi : z.status.nmi = y.status.nmi
  variant : z.cart.variant = y.cart.variant
  romSize : z.cart.romSize = y.cart.romSize
  rom : z.cart.rom = y.cart.rom
  romKey : z.cart.romKey = y.cart.romKey
  bankLocked : z.cart.bankLocked = y.cart.bankLocked
  banks : y.cart.bankLocked = true → y.cart.SameBanks z.cart
  volume : z.audio.volume = y.audio.volume
  muted : z.audio.muted = y.audio.muted
  audio : ∃ ws : List SoundWrite, z.audio = y.audio.writes y.cfg ws

/-- `y` to `z` keeps every byte but those listed, and every steady field: the memory and system half of a frame. -/
def System.Kept (ls : List Loc) (y z : System) : Prop := System.BytesKept ls y z ∧ y.Steady z

/-- The backing byte a bus read at `addr` disturbs in `s`: that of a write port (20_memory.md R93); none otherwise. -/
def State.readPlaces (addr : Word) (s : State) : List Loc := (s.sys.peekTarget addr).toList

/-- The backing byte a bus write at `addr` stores to in `s`; none where the write reaches no RAM. -/
def State.writePlaces (addr : Word) (s : State) : List Loc := (s.sys.pokeTarget addr).toList

/-- The bytes a read-class operand disturbs: that of a write port at its effective address. -/
def State.sourcePlaces (o : Source) (s : State) : List Loc :=
  match o with
  | .imm _ => []
  | .mem m => (s.effectiveAddress .read m).2.readPlaces (s.effectiveAddress .read m).1

/-- The byte a store writes, from its effective address. -/
def State.storePlaces (m : MemOperand) (s : State) : List Loc :=
  (s.effectiveAddress .write m).2.writePlaces (s.effectiveAddress .write m).1

/-- The state between the read and the write of a read-modify-write instruction, and the byte read. -/
def State.modifyRead (m : MemOperand) (s : State) : Byte × State :=
  (s.effectiveAddress .readModifyWrite m).2.read (s.effectiveAddress .readModifyWrite m).1

/-- The bytes a read-modify-write instruction disturbs by its read or stores by its write, from its effective address. -/
def State.modifyPlaces (m : MemOperand) (s : State) : List Loc :=
  (s.effectiveAddress .readModifyWrite m).2.readPlaces (s.effectiveAddress .readModifyWrite m).1
    ++ (s.modifyRead m).2.writePlaces (s.effectiveAddress .readModifyWrite m).1

/-- The bytes `n` pushes store to, from the stack pointer (20_memory.md R75). -/
def State.pushPlaces : Nat → State → List Loc
  | 0, _ => []
  | n + 1, s => s.writePlaces (stackAddr s.sp) ++ State.pushPlaces n (s.setSP (s.sp - 1))

/-! ## The opcode map as the spec's grid has it -/

/-- Row 0 of the grid of 30_encoding.md R154. -/
def gridRow0 : List (Option (Mnemonic × Mode)) :=
  [some (.BRK, .Impl), some (.ORA, .IndX), none, none, none, some (.ORA, .Zp),
    some (.ASL, .Zp), none, some (.PHP, .Impl), some (.ORA, .Imm), some (.ASL, .Impl),
    none, none, some (.ORA, .Abs), some (.ASL, .Abs), none]

/-- Row 1 of the grid of 30_encoding.md R154. -/
def gridRow1 : List (Option (Mnemonic × Mode)) :=
  [some (.BPL, .Rel), some (.ORA, .IndY), none, none, none, some (.ORA, .ZpX),
    some (.ASL, .ZpX), none, some (.CLC, .Impl), some (.ORA, .AbsY), none,
    none, none, some (.ORA, .AbsX), some (.ASL, .AbsX), none]

/-- Row 2 of the grid of 30_encoding.md R154. -/
def gridRow2 : List (Option (Mnemonic × Mode)) :=
  [some (.JSR, .Abs), some (.AND, .IndX), none, none, some (.BIT, .Zp), some (.AND, .Zp),
    some (.ROL, .Zp), none, some (.PLP, .Impl), some (.AND, .Imm), some (.ROL, .Impl),
    none, some (.BIT, .Abs), some (.AND, .Abs), some (.ROL, .Abs), none]

/-- Row 3 of the grid of 30_encoding.md R154. -/
def gridRow3 : List (Option (Mnemonic × Mode)) :=
  [some (.BMI, .Rel), some (.AND, .IndY), none, none, none, some (.AND, .ZpX),
    some (.ROL, .ZpX), none, some (.SEC, .Impl), some (.AND, .AbsY), none,
    none, none, some (.AND, .AbsX), some (.ROL, .AbsX), none]

/-- Row 4 of the grid of 30_encoding.md R154. -/
def gridRow4 : List (Option (Mnemonic × Mode)) :=
  [some (.RTI, .Impl), some (.EOR, .IndX), none, none, none, some (.EOR, .Zp),
    some (.LSR, .Zp), none, some (.PHA, .Impl), some (.EOR, .Imm), some (.LSR, .Impl),
    none, some (.JMP, .Abs), some (.EOR, .Abs), some (.LSR, .Abs), none]

/-- Row 5 of the grid of 30_encoding.md R154. -/
def gridRow5 : List (Option (Mnemonic × Mode)) :=
  [some (.BVC, .Rel), some (.EOR, .IndY), none, none, none, some (.EOR, .ZpX),
    some (.LSR, .ZpX), none, some (.CLI, .Impl), some (.EOR, .AbsY), none,
    none, none, some (.EOR, .AbsX), some (.LSR, .AbsX), none]

/-- Row 6 of the grid of 30_encoding.md R154. -/
def gridRow6 : List (Option (Mnemonic × Mode)) :=
  [some (.RTS, .Impl), some (.ADC, .IndX), none, none, none, some (.ADC, .Zp),
    some (.ROR, .Zp), none, some (.PLA, .Impl), some (.ADC, .Imm), some (.ROR, .Impl),
    none, some (.JMP, .Ind), some (.ADC, .Abs), some (.ROR, .Abs), none]

/-- Row 7 of the grid of 30_encoding.md R154. -/
def gridRow7 : List (Option (Mnemonic × Mode)) :=
  [some (.BVS, .Rel), some (.ADC, .IndY), none, none, none, some (.ADC, .ZpX),
    some (.ROR, .ZpX), none, some (.SEI, .Impl), some (.ADC, .AbsY), none,
    none, none, some (.ADC, .AbsX), some (.ROR, .AbsX), none]

/-- Row 8 of the grid of 30_encoding.md R154. -/
def gridRow8 : List (Option (Mnemonic × Mode)) :=
  [none, some (.STA, .IndX), none, none, some (.STY, .Zp), some (.STA, .Zp),
    some (.STX, .Zp), none, some (.DEY, .Impl), none, some (.TXA, .Impl),
    none, some (.STY, .Abs), some (.STA, .Abs), some (.STX, .Abs), none]

/-- Row 9 of the grid of 30_encoding.md R154. -/
def gridRow9 : List (Option (Mnemonic × Mode)) :=
  [some (.BCC, .Rel), some (.STA, .IndY), none, none, some (.STY, .ZpX), some (.STA, .ZpX),
    some (.STX, .ZpY), none, some (.TYA, .Impl), some (.STA, .AbsY), some (.TXS, .Impl),
    none, none, some (.STA, .AbsX), none, none]

/-- Row A of the grid of 30_encoding.md R154. -/
def gridRowA : List (Option (Mnemonic × Mode)) :=
  [some (.LDY, .Imm), some (.LDA, .IndX), some (.LDX, .Imm), none, some (.LDY, .Zp), some (.LDA, .Zp),
    some (.LDX, .Zp), none, some (.TAY, .Impl), some (.LDA, .Imm), some (.TAX, .Impl),
    none, some (.LDY, .Abs), some (.LDA, .Abs), some (.LDX, .Abs), none]

/-- Row B of the grid of 30_encoding.md R154. -/
def gridRowB : List (Option (Mnemonic × Mode)) :=
  [some (.BCS, .Rel), some (.LDA, .IndY), none, none, some (.LDY, .ZpX), some (.LDA, .ZpX),
    some (.LDX, .ZpY), none, some (.CLV, .Impl), some (.LDA, .AbsY), some (.TSX, .Impl),
    none, some (.LDY, .AbsX), some (.LDA, .AbsX), some (.LDX, .AbsY), none]

/-- Row C of the grid of 30_encoding.md R154. -/
def gridRowC : List (Option (Mnemonic × Mode)) :=
  [some (.CPY, .Imm), some (.CMP, .IndX), none, none, some (.CPY, .Zp), some (.CMP, .Zp),
    some (.DEC, .Zp), none, some (.INY, .Impl), some (.CMP, .Imm), some (.DEX, .Impl),
    none, some (.CPY, .Abs), some (.CMP, .Abs), some (.DEC, .Abs), none]

/-- Row D of the grid of 30_encoding.md R154. -/
def gridRowD : List (Option (Mnemonic × Mode)) :=
  [some (.BNE, .Rel), some (.CMP, .IndY), none, none, none, some (.CMP, .ZpX),
    some (.DEC, .ZpX), none, some (.CLD, .Impl), some (.CMP, .AbsY), none,
    none, none, some (.CMP, .AbsX), some (.DEC, .AbsX), none]

/-- Row E of the grid of 30_encoding.md R154. -/
def gridRowE : List (Option (Mnemonic × Mode)) :=
  [some (.CPX, .Imm), some (.SBC, .IndX), none, none, some (.CPX, .Zp), some (.SBC, .Zp),
    some (.INC, .Zp), none, some (.INX, .Impl), some (.SBC, .Imm), some (.NOP, .Impl),
    none, some (.CPX, .Abs), some (.SBC, .Abs), some (.INC, .Abs), none]

/-- Row F of the grid of 30_encoding.md R154. -/
def gridRowF : List (Option (Mnemonic × Mode)) :=
  [some (.BEQ, .Rel), some (.SBC, .IndY), none, none, none, some (.SBC, .ZpX),
    some (.INC, .ZpX), none, some (.SED, .Impl), some (.SBC, .AbsY), none,
    none, none, some (.SBC, .AbsX), some (.INC, .AbsX), none]

/-- The cell of opcode `op`: row its high nibble, column its low nibble (30_encoding.md R154). -/
def gridCell (op : Byte) : Option (Mnemonic × Mode) :=
  ([gridRow0, gridRow1, gridRow2, gridRow3, gridRow4, gridRow5, gridRow6, gridRow7].getD (op.toNat / 16)
    ([gridRow8, gridRow9, gridRowA, gridRowB, gridRowC, gridRowD, gridRowE, gridRowF].getD (op.toNat / 16 - 8) [])).getD
    (op.toNat % 16) none

/-- The bytes of 30_encoding.md R155, as listed there. -/
def illegalOpcodes : List Byte :=
  [0x02, 0x03, 0x04, 0x07, 0x0B, 0x0C, 0x0F, 0x12, 0x13, 0x14, 0x17, 0x1A, 0x1B, 0x1C, 0x1F]
    ++ [0x22, 0x23, 0x27, 0x2B, 0x2F, 0x32, 0x33, 0x34, 0x37, 0x3A, 0x3B, 0x3C, 0x3F, 0x42, 0x43]
    ++ [0x44, 0x47, 0x4B, 0x4F, 0x52, 0x53, 0x54, 0x57, 0x5A, 0x5B, 0x5C, 0x5F, 0x62, 0x63, 0x64]
    ++ [0x67, 0x6B, 0x6F, 0x72, 0x73, 0x74, 0x77, 0x7A, 0x7B, 0x7C, 0x7F, 0x80, 0x82, 0x83, 0x87]
    ++ [0x89, 0x8B, 0x8F, 0x92, 0x93, 0x97, 0x9B, 0x9C, 0x9E, 0x9F, 0xA3, 0xA7, 0xAB, 0xAF, 0xB2]
    ++ [0xB3, 0xB7, 0xBB, 0xBF, 0xC2, 0xC3, 0xC7, 0xCB, 0xCF, 0xD2, 0xD3, 0xD4, 0xD7, 0xDA, 0xDB]
    ++ [0xDC, 0xDF, 0xE2, 0xE3, 0xE7, 0xEB, 0xEF, 0xF2, 0xF3, 0xF4, 0xF7, 0xFA, 0xFB, 0xFC, 0xFF]

/-- A run of `k` steps that does not stop. -/
def SafeRun (k : Nat) (s : State) : Prop := ∃ t, Sys2Proof.core.run k s = .next t

end Sys2Proof.Machine
end

