-- ==== Sys2Proof/Certificates/Slice0/Obligations.lean ====
section
/-! DEFINITION. The statements for the provers. Each docstring says which rule of spec/ it formalises; a claim about a free
value holds for every value of it. "Kept" (`System.Kept`) is the memory and system half of a frame: every backing byte but
those listed reads as before, and nothing but what bus accesses may change is changed. -/

section

open Sys2Proof Sys2Proof.Machine

/-! ## Encoding -/

/-- The decoder's map is the grid of 30_encoding.md R154, cell by cell: mnemonic and mode of a legal byte, nothing on an
illegal one; and the encoder puts each instruction back in its cell. -/
def Obligations.OpcodeMapIsTheGrid : Prop :=
  ∀ op : Byte, (instrOf op 0 0).map (fun i => (i.mnemonic, i.mode)) = gridCell op
    ∧ ∀ i, instrOf op 0 0 = some i → i.opcode = op

/-- Words written out from the encodings of 40, 41 and 42, one or more of each family (R200, R203, R206, R212, R230, R238,
R239, R246, R262, R268, R269, R271, R279; operand order R141, R149). The JSR clause leaves the high address byte undecoded: that
two-byte form is the model's choice (assumption log 11), where R141 and R269 give JSR three bytes. -/
def Obligations.SpecWordsDecode : Prop :=
  decode [0xA9, 0x80] = .ok (.ldaImm 0x80, [])
    ∧ decode [0xB6, 0xFF] = .ok (.ldxZpY 0xFF, [])
    ∧ decode [0x99, 0x80, 0x00] = .ok (.staAbsY 0x0080, [])
    ∧ decode [0xAA] = .ok (.tax, [])
    ∧ decode [0x48] = .ok (.pha, [])
    ∧ decode [0x7D, 0x34, 0x12] = .ok (.adcAbsX 0x1234, [])
    ∧ decode [0x2C, 0x00, 0xF0] = .ok (.bitAbs 0xF000, [])
    ∧ decode [0xE6, 0x80] = .ok (.incZp 0x80, [])
    ∧ decode [0x4A] = .ok (.lsrAcc, [])
    ∧ decode [0xF0, 0xFE] = .ok (.beq (-2), [])
    ∧ decode [0x6C, 0xFF, 0xF0] = .ok (.jmpInd 0xF0FF, [])
    ∧ decode [0x20, 0x23, 0xF1] = .ok (.jsr 0x23, [0xF1])
    ∧ decode [0x00] = .ok (.brk, [])
    ∧ decode [0xF8] = .ok (.sed, [])

/-- Decoding the encoding of any well-formed instruction gives it back, whatever bytes follow (30_encoding.md R140, R141,
R154). -/
def Obligations.DecodeEncodeRoundTrip : Prop :=
  ∀ (i : Instr) (rest : List Byte), i.wf = true → decode (encode i ++ rest) = .ok (i, rest)

/-- The other direction: every decoded instruction is well-formed, and the bytes it was read from are its encoding. -/
def Obligations.DecodedBytesReencode : Prop :=
  ∀ (bytes : List Byte) (i : Instr) (rest : List Byte), decode bytes = .ok (i, rest) →
    i.wf = true ∧ bytes = encode i ++ rest

/-- The bytes R155 lists, and no others, are rejected as illegal whatever follows (30_encoding.md R155); an instruction's
length is the one R141 gives its mode, JSR's last byte being fetched by the instruction itself (42_control_flags.md R269). -/
def Obligations.IllegalOpcodesAndLengths : Prop :=
  (∀ op : Byte, op ∈ illegalOpcodes ↔ ∀ rest, decode (op :: rest) = .error (.illegalOpcode op))
    ∧ ∀ i : Instr, (encode i).length + (if i.mnemonic = .JSR then 1 else 0) =
        if i.mode = .Impl then 1 else if i.mode ∈ [.Abs, .AbsX, .AbsY, .Ind] then 3 else 2

/-! ## Steps, exceptions, interrupts -/

/-- A step runs the decoded instruction: with no interrupt to take, the opcode byte read at PC and the operand bytes after it
decode to `i`, and the step is `exec i` in the state after those fetches (PC past the bytes, IR the opcode, every other
register as before), then one more completed instruction (60_exceptions.md R302; 30_encoding.md R140, R143). -/
def Obligations.StepRunsDecodedInstruction : Prop :=
  ∀ (s : State) (i : Instr) (rest : List Byte), s.running = true → s.noInterrupt = true →
    decode s.clearStop.fetchInstruction.1 = .ok (i, rest) →
    let u := s.clearStop.fetchInstruction.2
    i.wf = true ∧ rest = [] ∧ (s.clearStop.read s.pc).1 = i.opcode
      ∧ u = { s with
          pc := s.pc + BitVec.ofNat 16 (encode i).length
          ir := i.opcode
          lastAccessWasRead := u.lastAccessWasRead
          sys := u.sys }
      ∧ step s = match exec i u with
          | .next t => .next { t with instructionCount := t.instructionCount + 1 }
          | .fault r => .fault r
          | .refused r => .refused r

/-- An illegal opcode (60_exceptions.md R303): one cycle and one bus read; then FatalError is set, PC is at the opcode, IR is
the opcode, every other register and flag and the instruction count are unchanged, and `execute` answers false. -/
def Obligations.IllegalOpcodeRaisesFatal : Prop :=
  ∀ s : State, s.running = true → s.noInterrupt = true → legalOpcode (s.clearStop.read s.pc).1 = false →
    let r := s.clearStop.read s.pc
    let t : State := { s with
      ir := r.1
      lastAccessWasRead := true
      sys := { r.2.sys with status := { r.2.sys.status with fatal := true } } }
    step s = .next t ∧ (∀ n, execute (n + 1) s = .next (false, t))
      ∧ t.sys.cycles = s.sys.cycles + BitVec.ofNat 32 s.sys.cfg.spc
      ∧ (s.sys.dataBusLocked = false → t.sys.dataBus = r.1)
      ∧ System.Kept (s.readPlaces s.pc) s.clearStop.sys r.2.sys

/-- FatalError is sticky and is the only stop (60_exceptions.md R304, R305, R317): with it set `execute` answers false without
fetching, for which `step` has the fault `fatalErrorHalt`, the model's form (assumption log 10); without it every step answers a next state; no host call but `reset` and `load` clears it. -/
def Obligations.FatalErrorIsStickyAndOnlyStop : Prop :=
  (∀ s : State, s.sys.status.fatal = true →
      step s = .fault .fatalErrorHalt ∧ ∀ n, execute n s = .next (false, s.clearStop))
    ∧ (∀ s : State, s.running = true → ∃ t, step s = .next t)
    ∧ ∀ (h : HostCall) (s t : State), s.sys.status.fatal = true → HostCall.apply h s = .next t →
        t.sys.status.fatal = true ∨ h = .reset ∨ ∃ bytes, h = .load bytes

/-- `execute(n)` runs steps (60_exceptions.md R300): with `n = 0` it only clears StopExecution; otherwise it takes a step and
stops with false on FatalError, with true on StopExecution, or goes on with `n - 1`. -/
def Obligations.ExecuteFollowsSteps : Prop :=
  (∀ s : State, execute 0 s = .next (s.running, s.clearStop))
    ∧ ∀ (n : Nat) (s t : State), s.running = true → step s = .next t →
        execute (n + 1) s =
          if t.sys.status.fatal then .next (false, t) else if t.sys.status.stop then .next (true, t) else execute n t

/-- The check before an instruction (60_exceptions.md R300, R309 to R312): a pending NMI is taken first, whatever I is; a
pending IRQ only with I clear; an entry clears its own pending bit and no other, and at most one is taken; with none to
take, pending bits stay pending through the step. -/
def Obligations.InterruptService : Prop :=
  ∀ s : State, s.running = true →
    (s.sys.status.nmi = true →
      step s = runInstruction
        ((s.clearStop.setSys (s.clearStop.sys.setStatus { s.clearStop.sys.status with nmi := false })).interruptEntry 0xFFFA))
    ∧ (s.sys.status.nmi = false → s.sys.status.irq = true → s.flags.i = false →
      step s = runInstruction
        ((s.clearStop.setSys (s.clearStop.sys.setStatus { s.clearStop.sys.status with irq := false })).interruptEntry 0xFFFE))
    ∧ (s.noInterrupt = true → step s = runInstruction s.clearStop
      ∧ ∀ t, step s = .next t → t.sys.status.irq = s.sys.status.irq ∧ t.sys.status.nmi = s.sys.status.nmi)

/-- Trap entry (60_exceptions.md R313, 70_reset_and_hazards.md R414): PC's high byte, its low byte and `P & 0xEF | 0x20`
pushed downward from `$0100 + SP`; then B clear, I set and PC the word at the vector, the other flags and registers
unchanged; seven processor cycles with a video collaborator that adds none. -/
def Obligations.TrapEntry : Prop :=
  ∀ (s : State) (vec : Word), vec = 0xFFFA ∨ vec = 0xFFFE →
    let w := (s.idle.idle.pushWord s.pc).push (s.flags.toByte &&& 0xEF ||| 0x20)
    let r := w.read16 vec
    let t := s.interruptEntry vec
    t = { s with
        sp := s.sp - 3
        flags := { s.flags with b := false, i := true }
        pc := r.1
        lastAccessWasRead := true
        sys := r.2.sys }
      ∧ (s.inv = true →
        (∀ l ∈ s.writePlaces (stackAddr s.sp), t.sys.byteAt l = hiByte s.pc)
        ∧ (∀ l ∈ s.writePlaces (stackAddr (s.sp - 1)), t.sys.byteAt l = loByte s.pc)
        ∧ ∀ l ∈ s.writePlaces (stackAddr (s.sp - 2)), t.sys.byteAt l = s.flags.toByte &&& 0xEF ||| 0x20)
      ∧ System.Kept (s.pushPlaces 3) s.sys t.sys
      ∧ (s.sys.cfg.tiaVideo = .quiet → t.sys.cycles = s.sys.cycles + BitVec.ofNat 32 (7 * s.sys.cfg.spc))

/-! ## Whole-machine rules -/

/-- The state after reset satisfies the invariant. -/
def Obligations.ResetSatisfiesInvariant : Prop := State.inv State.reset = true

/-- Every step keeps the invariant: parameters in range, the devices attached in order, RIOT RAM, on-cart RAM and ROM image
canonical and inside their sizes, every bank register naming a bank (10_state.md R35), every divider that of its registers
and every queued write to a sound register (10_state.md R37, 60_exceptions.md R342, R346). -/
def Obligations.StepKeepsInvariant : Prop :=
  ∀ s t : State, s.inv = true → step s = .next t → t.inv = true

/-- A step leaves the host's side alone: configuration, device list, locks, the ROM image ("ROM cannot be written by a
program", 70_reset_and_hazards.md R421), volume and mute. The audio state changes by whole sound writes in order, each after
the callbacks scheduled before it (20_memory.md R82; the schedule's form is assumption log 19); with none scheduled the
synthesizer stays (60_exceptions.md R341) and the queue only grows at its tail (R346). No instruction and no device raises an interrupt: one pending after a step was pending before it
(60_exceptions.md R307, R308, R316). -/
def Obligations.StepKeepsHostSide : Prop :=
  ∀ s t : State, step s = .next t →
    t.sys.cfg = s.sys.cfg ∧ t.sys.devices = s.sys.devices ∧ t.sys.dataBusLocked = s.sys.dataBusLocked
      ∧ t.sys.cart.variant = s.sys.cart.variant ∧ t.sys.cart.romSize = s.sys.cart.romSize
      ∧ t.sys.cart.rom = s.sys.cart.rom ∧ t.sys.cart.romKey = s.sys.cart.romKey
      ∧ t.sys.cart.bankLocked = s.sys.cart.bankLocked
      ∧ t.sys.audio.volume = s.sys.audio.volume ∧ t.sys.audio.muted = s.sys.audio.muted
      ∧ (∃ ws, t.sys.audio = s.sys.audio.writes s.sys.cfg ws)
      ∧ (s.sys.audio.requests = [] →
        t.sys.audio.ch0 = s.sys.audio.ch0 ∧ t.sys.audio.ch1 = s.sys.audio.ch1
        ∧ t.sys.audio.outputCounter = s.sys.audio.outputCounter ∧ t.sys.audio.fragments = s.sys.audio.fragments
        ∧ ∃ new, t.sys.audio.queue = s.sys.audio.queue ++ new)
      ∧ (t.sys.status.irq = true → s.sys.status.irq = true) ∧ (t.sys.status.nmi = true → s.sys.status.nmi = true)

/-- Every host call of R440 keeps the invariant, but `attach` (which changes the device list) and a `load` that fails (whose
state is a draw, 60_exceptions.md R371). -/
def Obligations.HostCallsKeepInvariant : Prop :=
  ∀ (h : HostCall) (s t : State), s.inv = true → (∀ d, h ≠ .attach d) →
    (∀ bytes, h = .load bytes → s.load bytes ≠ none) → HostCall.apply h s = .next t → t.inv = true

/-- Cycle accounting (70_reset_and_hazards.md R410 to R415): with a video collaborator that adds nothing, a step advances
`cycles` by `spc` times the table cost of its instruction with its penalties, or one for an illegal opcode's fetch, plus
seven for an interrupt entry. -/
def Obligations.CycleAccounting : Prop :=
  ∀ s t : State, s.sys.cfg.tiaVideo = .quiet → step s = .next t →
    let u := s.clearStop.serviceInterrupt
    let entry := if s.noInterrupt then 0 else 7
    let cost := match decode u.fetchInstruction.1 with
      | .ok (i, _) => Instr.cost i u.fetchInstruction.2
      | .error _ => 1
    t.sys.cycles = s.sys.cycles + BitVec.ofNat 32 ((entry + cost) * s.sys.cfg.spc)

/-! ## Effective addresses -/

/-- The effective address of each mode, from the operand bytes, X, Y and the pointer bytes read in page zero
(30_encoding.md R145 to R151); and a read-class operand is one bus read there, one cycle later (R142). -/
def Obligations.EffectiveAddresses : Prop :=
  ∀ (c : AccessClass) (s : State) (z : Byte) (a : Word),
    (s.effectiveAddress c (.zp z)).1 = z.setWidth 16
    ∧ (s.effectiveAddress c (.zpX z)).1 = (z + s.x).setWidth 16
    ∧ (s.effectiveAddress c (.zpY z)).1 = (z + s.y).setWidth 16
    ∧ (s.effectiveAddress c (.abs a)).1 = a
    ∧ (s.effectiveAddress c (.absX a)).1 = a + s.x.setWidth 16
    ∧ (s.effectiveAddress c (.absY a)).1 = a + s.y.setWidth 16
    ∧ (let lo := s.idle.read ((z + s.x).setWidth 16)
       let hi := lo.2.read ((z + s.x + 1).setWidth 16)
       (s.effectiveAddress c (.indX z)).1 = hi.1.setWidth 16 <<< 8 ||| lo.1.setWidth 16)
    ∧ (let lo := s.read (z.setWidth 16)
       let hi := lo.2.read ((z + 1).setWidth 16)
       (s.effectiveAddress c (.indY z)).1 = (hi.1.setWidth 16 <<< 8 ||| lo.1.setWidth 16) + s.y.setWidth 16)
    ∧ (∀ m, s.readSource (.mem m) = (s.effectiveAddress .read m).2.read (s.effectiveAddress .read m).1)
    ∧ ∀ v, s.readSource (.imm v) = (v, s)

/-! ## Loads, stores, transfers, stack -/

/-- LDA, LDX, LDY in every mode (40_load_store_transfer.md R200 to R202): the register is the operand read, N and Z are its
own, every other register and flag is unchanged. Covers LDA Imm Zp ZpX Abs AbsX AbsY IndX IndY, LDX Imm Zp ZpY Abs AbsY,
LDY Imm Zp ZpX Abs AbsX. -/
def Obligations.LoadInstructions : Prop :=
  ∀ (i : Instr) (o : Source) (s : State), i.operand = .src o →
    let m := s.readSource o
    let t : State := { s with
      flags := { s.flags with n := m.1.getLsbD 7, z := m.1 == 0 }
      lastAccessWasRead := m.2.lastAccessWasRead
      sys := m.2.sys }
    (i.mnemonic = .LDA → exec i s = .next { t with a := m.1 })
      ∧ (i.mnemonic = .LDX → exec i s = .next { t with x := m.1 })
      ∧ (i.mnemonic = .LDY → exec i s = .next { t with y := m.1 })
      ∧ System.Kept (s.sourcePlaces o) s.sys m.2.sys

/-- STA, STX, STY in every mode (40_load_store_transfer.md R203 to R205): one bus write of the register at the effective
address; no register and no flag changes; of all bytes only the one stored to does, and it then holds the value. Covers STA
Zp ZpX Abs AbsX AbsY IndX IndY, STX Zp ZpY Abs, STY Zp ZpX Abs. -/
def Obligations.StoreInstructions : Prop :=
  ∀ (i : Instr) (m : MemOperand) (s : State), i.operand = .src (.mem m) →
    let ea := s.effectiveAddress .write m
    ∀ v : Byte, i.mnemonic = .STA ∧ v = s.a ∨ i.mnemonic = .STX ∧ v = s.x ∨ i.mnemonic = .STY ∧ v = s.y →
      let y := ea.2.sys.tick.poke ea.1 v
      exec i s = .next { s with lastAccessWasRead := false, sys := y }
        ∧ System.Kept (ea.2.writePlaces ea.1) s.sys y
        ∧ y.dataBus = v
        ∧ (s.inv = true → ∀ l ∈ ea.2.writePlaces ea.1, y.byteAt l = v)

/-- TAX, TAY, TXA, TYA, TSX, TXS (40_load_store_transfer.md R206 to R211): opcode, two cycles, the register copied, N and Z
from it but for TXS, nothing else changed. -/
def Obligations.RegisterTransfers : Prop :=
  ∀ s : State,
    let nz := fun v : Byte => ({ s.flags with n := v.getLsbD 7, z := v == 0 } : Flags)
    (encode .tax = [0xAA] ∧ Instr.cost .tax s = 2 ∧ exec .tax s = .next { s with x := s.a, flags := nz s.a, sys := s.sys.tick })
    ∧ (encode .tay = [0xA8] ∧ Instr.cost .tay s = 2
      ∧ exec .tay s = .next { s with y := s.a, flags := nz s.a, sys := s.sys.tick })
    ∧ (encode .txa = [0x8A] ∧ Instr.cost .txa s = 2
      ∧ exec .txa s = .next { s with a := s.x, flags := nz s.x, sys := s.sys.tick })
    ∧ (encode .tya = [0x98] ∧ Instr.cost .tya s = 2
      ∧ exec .tya s = .next { s with a := s.y, flags := nz s.y, sys := s.sys.tick })
    ∧ (encode .tsx = [0xBA] ∧ Instr.cost .tsx s = 2
      ∧ exec .tsx s = .next { s with x := s.sp, flags := nz s.sp, sys := s.sys.tick })
    ∧ (encode .txs = [0x9A] ∧ Instr.cost .txs s = 2 ∧ exec .txs s = .next { s with sp := s.x, sys := s.sys.tick })

/-- PHA and PHP (40_load_store_transfer.md R212, R213): after the opcode's cycle, one without access, then one write at
`$0100 | SP`; SP goes down by one, wrapping; PHP's byte has bits 4 and 5 set. -/
def Obligations.PushInstructions : Prop :=
  ∀ (s : State) (i : Instr) (v : Byte), i = .pha ∧ v = s.a ∨ i = .php ∧ v = s.flags.toByte ||| 0x30 →
    let y := s.sys.tick.tick.poke (stackAddr s.sp) v
    exec i s = .next { s with sp := s.sp - 1, lastAccessWasRead := false, sys := y }
      ∧ System.Kept (s.writePlaces (stackAddr s.sp)) s.sys y
      ∧ (s.inv = true → ∀ l ∈ s.writePlaces (stackAddr s.sp), y.byteAt l = v)

/-- PLA and PLP (40_load_store_transfer.md R214, R215): two cycles without access, then one read at `$0100 | (SP + 1)`. PLA
sets A, N and Z; PLP sets all seven flags from bits 7 6 4 3 2 1 0. -/
def Obligations.PullInstructions : Prop :=
  ∀ s : State,
    let r := s.sys.tick.tick.tick.peek (stackAddr (s.sp + 1))
    exec .pla s = .next { s with
        a := r.1
        sp := s.sp + 1
        flags := { s.flags with n := r.1.getLsbD 7, z := r.1 == 0 }
        lastAccessWasRead := true
        sys := r.2 }
      ∧ exec .plp s = .next { s with
        sp := s.sp + 1
        flags := { n := r.1.getLsbD 7, v := r.1.getLsbD 6, b := r.1.getLsbD 4, d := r.1.getLsbD 3, i := r.1.getLsbD 2,
                   z := r.1.getLsbD 1, c := r.1.getLsbD 0 }
        lastAccessWasRead := true
        sys := r.2 }
      ∧ System.Kept [] s.sys r.2

/-! ## Arithmetic, logic, compare -/

/-- ADC and SBC with D clear, in every mode (41_arith_logic_shift.md R221, R222): the result, C, V, N and Z by the rules'
formulas over the integers; SBC also equals the addition of the operand's complement. -/
def Obligations.BinaryArithmetic : Prop :=
  ∀ (i : Instr) (o : Source) (s : State), i.operand = .src o → s.flags.d = false →
    let m := s.readSource o
    let c : Nat := if s.flags.c then 1 else 0
    let sum : Nat := s.a.toNat + m.1.toNat + c
    let r := BitVec.ofNat 8 sum
    let diff : Int := (s.a.toNat : Int) - m.1.toNat - (1 - c)
    let q := BitVec.ofInt 8 diff
    let next := fun (v : Byte) (carry overflow : Bool) => Host.Outcome.next { s with
      a := v
      flags := { s.flags with n := v.getLsbD 7, v := overflow, z := v == 0, c := carry }
      lastAccessWasRead := m.2.lastAccessWasRead
      sys := m.2.sys }
    (i.mnemonic = .ADC → exec i s = next r (decide (0xFF < sum)) (((s.a ^^^ r) &&& (m.1 ^^^ r) &&& 0x80) != 0))
      ∧ (i.mnemonic = .SBC →
        exec i s = next q (decide (0 ≤ diff)) (((s.a ^^^ m.1) &&& (s.a ^^^ q) &&& 0x80) != 0)
        ∧ q = BitVec.ofNat 8 (s.a.toNat + (~~~m.1).toNat + c)
        ∧ (0 ≤ diff ↔ 0xFF < s.a.toNat + (~~~m.1).toNat + c))
      ∧ System.Kept (s.sourcePlaces o) s.sys m.2.sys

/-- V of ADC and SBC is signed overflow (41_arith_logic_shift.md R220): the two's complement result does not fit. -/
def Obligations.OverflowIsSignedOverflow : Prop :=
  ∀ (a m : Byte) (f : Flags),
    let c : Int := if f.c then 1 else 0
    ((adcBinary a m f).2.v = true ↔ a.toInt + m.toInt + c < -128 ∨ 127 < a.toInt + m.toInt + c)
      ∧ ((sbcBinary a m f).2.v = true ↔ a.toInt - m.toInt - (1 - c) < -128 ∨ 127 < a.toInt - m.toInt - (1 - c))

/-- ADC and SBC with D set, in every mode (41_arith_logic_shift.md R223, R224): A and C by the nibble rules, C of SBC the
binary borrow; N, V and Z are whatever they are. That one numbered free value is drawn for the three is the model's choice
(assumption logs 7 and 34). -/
def Obligations.DecimalArithmetic : Prop :=
  ∀ (i : Instr) (o : Source) (s : State), i.operand = .src o → s.flags.d = true →
    let m := s.readSource o
    let c : Int := if s.flags.c then 1 else 0
    let al : Int := (s.a &&& 0x0F).toNat
    let ah : Int := (s.a >>> 4).toNat
    let ml : Int := (m.1 &&& 0x0F).toNat
    let mh : Int := (m.1 >>> 4).toNat
    let lo := if 9 < al + ml + c then al + ml + c + 6 else al + ml + c
    let hi0 := ah + mh + (if 0x0F < lo then 1 else 0)
    let hi := if 9 < hi0 then hi0 + 6 else hi0
    let bl := al - ml - (1 - c)
    let lo' := if bl < 0 then bl - 6 else bl
    let bh := if bl < 0 then ah - mh - 1 else ah - mh
    let hi' := if bh < 0 then bh - 6 else bh
    let next := fun (r : Int) (carry n v z : Bool) => Host.Outcome.next { s with
      a := BitVec.ofInt 8 r
      flags := { s.flags with n := n, v := v, z := z, c := carry }
      lastAccessWasRead := m.2.lastAccessWasRead
      sys := { m.2.sys with draws := m.2.sys.draws + 1 } }
    (i.mnemonic = .ADC → ∃ n v z, exec i s = next (hi * 16 + lo % 16) (decide (0x0F < hi)) n v z)
      ∧ (i.mnemonic = .SBC → ∃ n v z,
        exec i s = next (hi' * 16 + lo' % 16) (decide (0 ≤ (s.a.toNat : Int) - m.1.toNat - (1 - c))) n v z)
      ∧ System.Kept (s.sourcePlaces o) s.sys m.2.sys

/-- On operands whose nibbles are decimal digits, decimal ADC and SBC are decimal addition and subtraction modulo 100, with C
the decimal carry or the absence of a borrow (41_arith_logic_shift.md R223, R224). -/
def Obligations.DecimalResultsOnDigits : Prop :=
  ∀ (a m : Byte) (c : Bool), a.toNat % 16 ≤ 9 → a.toNat / 16 ≤ 9 → m.toNat % 16 ≤ 9 → m.toNat / 16 ≤ 9 →
    let val := fun b : Byte => b.toNat / 16 * 10 + b.toNat % 16
    let k := if c then 1 else 0
    val (decimalAdd a m c) = (val a + val m + k) % 100
      ∧ (decimalAddCarry a m c = true ↔ 100 ≤ val a + val m + k)
      ∧ (val (decimalSub a m c) : Int) = ((val a : Int) - val m - (1 - k)) % 100
      ∧ (0 ≤ subDifference a m c ↔ val m + 1 ≤ val a + k)

/-- AND, ORA, EOR in every mode (41_arith_logic_shift.md R232 to R234): A is the bitwise result, N and Z its own. -/
def Obligations.LogicInstructions : Prop :=
  ∀ (i : Instr) (o : Source) (s : State), i.operand = .src o →
    let m := s.readSource o
    let next := fun v : Byte => Host.Outcome.next { s with
      a := v
      flags := { s.flags with n := v.getLsbD 7, z := v == 0 }
      lastAccessWasRead := m.2.lastAccessWasRead
      sys := m.2.sys }
    (i.mnemonic = .AND → exec i s = next (s.a &&& m.1))
      ∧ (i.mnemonic = .ORA → exec i s = next (s.a ||| m.1))
      ∧ (i.mnemonic = .EOR → exec i s = next (s.a ^^^ m.1))
      ∧ System.Kept (s.sourcePlaces o) s.sys m.2.sys

/-- CMP, CPX, CPY in every mode, whatever D is (41_arith_logic_shift.md R225, R235 to R237): C is unsigned `R ≥ M`, Z is
`R = M`, N is bit 7 of `R - M`; V and every register are unchanged. -/
def Obligations.CompareInstructions : Prop :=
  ∀ (i : Instr) (o : Source) (s : State), i.operand = .src o →
    let m := s.readSource o
    ∀ r : Byte, i.mnemonic = .CMP ∧ r = s.a ∨ i.mnemonic = .CPX ∧ r = s.x ∨ i.mnemonic = .CPY ∧ r = s.y →
      exec i s = .next { s with
          flags := { s.flags with
            n := (BitVec.ofInt 8 ((r.toNat : Int) - m.1.toNat)).getLsbD 7
            z := decide (r = m.1)
            c := decide (m.1.toNat ≤ r.toNat) }
          lastAccessWasRead := m.2.lastAccessWasRead
          sys := m.2.sys }
        ∧ System.Kept (s.sourcePlaces o) s.sys m.2.sys

/-- BIT Zp and Abs (41_arith_logic_shift.md R238): N and V are bits 7 and 6 of the byte read, Z says `A & M = 0`; A and the
other flags are unchanged. -/
def Obligations.BitInstruction : Prop :=
  ∀ (i : Instr) (o : Source) (s : State), i.operand = .src o → i.mnemonic = .BIT →
    let m := s.readSource o
    exec i s = .next { s with
        flags := { s.flags with n := m.1.getLsbD 7, v := m.1.getLsbD 6, z := decide (s.a &&& m.1 = 0) }
        lastAccessWasRead := m.2.lastAccessWasRead
        sys := m.2.sys }
      ∧ System.Kept (s.sourcePlaces o) s.sys m.2.sys

/-! ## Increment, decrement, shifts -/

/-- INC and DEC Zp ZpX Abs AbsX (41_arith_logic_shift.md R239, R240, R226): one read at the effective address, a cycle, one
write there of the byte plus or minus one modulo 256; N and Z from it; C, V and the registers unchanged. -/
def Obligations.IncDecMemory : Prop :=
  ∀ (i : Instr) (m : MemOperand) (s : State), i.operand = .src (.mem m) →
    let ea := s.effectiveAddress .readModifyWrite m
    let r := ea.2.read ea.1
    ∀ v : Byte, i.mnemonic = .INC ∧ v = BitVec.ofNat 8 (r.1.toNat + 1)
        ∨ i.mnemonic = .DEC ∧ v = BitVec.ofNat 8 (r.1.toNat + 255) →
      let y := r.2.sys.tick.tick.poke ea.1 v
      exec i s = .next { s with
          flags := { s.flags with n := v.getLsbD 7, z := v == 0 }
          lastAccessWasRead := false
          sys := y }
        ∧ System.Kept (ea.2.readPlaces ea.1 ++ r.2.writePlaces ea.1) s.sys y
        ∧ (s.inv = true → ∀ l ∈ r.2.writePlaces ea.1, y.byteAt l = v)

/-- INX, INY, DEX, DEY (41_arith_logic_shift.md R241 to R244, R226): opcode, two cycles, the register plus or minus one
modulo 256, N and Z from it, nothing else changed. -/
def Obligations.IncDecRegisters : Prop :=
  ∀ s : State,
    let nz := fun v : Byte => ({ s.flags with n := v.getLsbD 7, z := v == 0 } : Flags)
    (encode .inx = [0xE8] ∧ Instr.cost .inx s = 2
      ∧ exec .inx s = .next { s with x := s.x + 1, flags := nz (s.x + 1), sys := s.sys.tick })
    ∧ (encode .iny = [0xC8] ∧ Instr.cost .iny s = 2
      ∧ exec .iny s = .next { s with y := s.y + 1, flags := nz (s.y + 1), sys := s.sys.tick })
    ∧ (encode .dex = [0xCA] ∧ Instr.cost .dex s = 2
      ∧ exec .dex s = .next { s with x := s.x - 1, flags := nz (s.x - 1), sys := s.sys.tick })
    ∧ (encode .dey = [0x88] ∧ Instr.cost .dey s = 2
      ∧ exec .dey s = .next { s with y := s.y - 1, flags := nz (s.y - 1), sys := s.sys.tick })

/-- The accumulator forms of ASL, LSR, ROL, ROR (41_arith_logic_shift.md R245 to R248, 30_encoding.md R153): A is shifted
within 8 bits, C is the bit shifted out, N and Z from the result; no bus access. -/
def Obligations.AccumulatorShifts : Prop :=
  ∀ s : State,
    let a := s.a.toNat
    let c : Nat := if s.flags.c then 1 else 0
    let next := fun (r : Nat) (carry : Bool) => Host.Outcome.next { s with
      a := BitVec.ofNat 8 r
      flags := { s.flags with n := (BitVec.ofNat 8 r).getLsbD 7, z := BitVec.ofNat 8 r == 0, c := carry }
      sys := s.sys.tick }
    exec .aslAcc s = next (a * 2) (decide (128 ≤ a))
      ∧ exec .lsrAcc s = next (a / 2) (decide (a % 2 = 1))
      ∧ exec .rolAcc s = next (a * 2 + c) (decide (128 ≤ a))
      ∧ exec .rorAcc s = next (a / 2 + 128 * c) (decide (a % 2 = 1))

/-- The memory forms of ASL, LSR, ROL, ROR (Zp ZpX Abs AbsX; 41_arith_logic_shift.md R245 to R248): one read, a cycle, one
write of the shifted byte at the same address; N, Z and C as in the accumulator forms; no register changes. -/
def Obligations.MemoryShifts : Prop :=
  ∀ (i : Instr) (m : MemOperand) (s : State), i.operand = .src (.mem m) →
    let ea := s.effectiveAddress .readModifyWrite m
    let r := ea.2.read ea.1
    let c : Nat := if s.flags.c then 1 else 0
    ∀ (v : Byte) (carry : Bool),
      i.mnemonic = .ASL ∧ v = BitVec.ofNat 8 (r.1.toNat * 2) ∧ carry = decide (128 ≤ r.1.toNat)
        ∨ i.mnemonic = .LSR ∧ v = BitVec.ofNat 8 (r.1.toNat / 2) ∧ carry = decide (r.1.toNat % 2 = 1)
        ∨ i.mnemonic = .ROL ∧ v = BitVec.ofNat 8 (r.1.toNat * 2 + c) ∧ carry = decide (128 ≤ r.1.toNat)
        ∨ i.mnemonic = .ROR ∧ v = BitVec.ofNat 8 (r.1.toNat / 2 + 128 * c) ∧ carry = decide (r.1.toNat % 2 = 1) →
      let y := r.2.sys.tick.tick.poke ea.1 v
      exec i s = .next { s with
          flags := { s.flags with n := v.getLsbD 7, z := v == 0, c := carry }
          lastAccessWasRead := false
          sys := y }
        ∧ System.Kept (ea.2.readPlaces ea.1 ++ r.2.writePlaces ea.1) s.sys y
        ∧ (s.inv = true → ∀ l ∈ r.2.writePlaces ea.1, y.byteAt l = v)

/-! ## Control transfer -/

/-- The eight branches (42_control_flags.md R255, R260 to R267): taken exactly under their condition, to the address of the
next instruction plus the displacement, one cycle more, two when the target's high byte differs; not taken, nothing more
happens. No flag and no other register changes, and no bus access is made. -/
def Obligations.BranchInstructions : Prop :=
  ∀ (d : Int) (s : State),
    let target := s.pc + BitVec.ofInt 16 d
    let taken : State := { s with
      pc := target
      sys := if target.toNat / 256 = s.pc.toNat / 256 then s.sys.tick else s.sys.tick.tick }
    let go := fun cond : Bool => Host.Outcome.next (if cond then taken else s)
    exec (.bcc d) s = go (!s.flags.c) ∧ exec (.bcs d) s = go s.flags.c
      ∧ exec (.bne d) s = go (!s.flags.z) ∧ exec (.beq d) s = go s.flags.z
      ∧ exec (.bpl d) s = go (!s.flags.n) ∧ exec (.bmi d) s = go s.flags.n
      ∧ exec (.bvc d) s = go (!s.flags.v) ∧ exec (.bvs d) s = go s.flags.v

/-- JMP Abs and JMP Ind (42_control_flags.md R268, 30_encoding.md R150): the pointer's high byte is read from the same page. -/
def Obligations.JumpInstructions : Prop :=
  ∀ (a : Word) (s : State),
    let lo := s.read a
    let hi := lo.2.read (a &&& 0xFF00 ||| (a + 1) &&& 0x00FF)
    exec (.jmpAbs a) s = .next { s with pc := a }
      ∧ exec (.jmpInd a) s = .next { s with
        pc := hi.1.setWidth 16 <<< 8 ||| lo.1.setWidth 16
        lastAccessWasRead := true
        sys := hi.2.sys }
      ∧ System.Kept (s.readPlaces a ++ lo.2.readPlaces (a &&& 0xFF00 ||| (a + 1) &&& 0x00FF)) s.sys hi.2.sys

/-- JSR (42_control_flags.md R269), with PC at its high byte: a cycle, PC pushed high byte first, then the target's high byte
read at PC. -/
def Obligations.JumpSubroutine : Prop :=
  ∀ (lo : Byte) (s : State),
    let w := s.idle.pushWord s.pc
    let hi := w.read s.pc
    exec (.jsr lo) s = .next { s with
        sp := s.sp - 2
        pc := hi.1.setWidth 16 <<< 8 ||| lo.setWidth 16
        lastAccessWasRead := true
        sys := hi.2.sys }
      ∧ System.Kept (s.pushPlaces 2 ++ w.readPlaces s.pc) s.sys hi.2.sys
      ∧ (s.inv = true → (∀ l ∈ s.writePlaces (stackAddr s.sp), hi.2.sys.byteAt l = hiByte s.pc)
        ∧ ∀ l ∈ s.writePlaces (stackAddr (s.sp - 1)), hi.2.sys.byteAt l = loByte s.pc)

/-- RTS and RTI (42_control_flags.md R270, R272, 60_exceptions.md R315): RTS pulls PC low byte first and adds one; RTI pulls
P, all seven flags of it, then PC, with no addition. -/
def Obligations.ReturnInstructions : Prop :=
  ∀ s : State,
    let p1 := s.sys.tick.tick.tick.peek (stackAddr (s.sp + 1))
    let p2 := p1.2.tick.peek (stackAddr (s.sp + 2))
    let p3 := p2.2.tick.peek (stackAddr (s.sp + 3))
    exec .rts s = .next { s with
        sp := s.sp + 2
        pc := (p2.1.setWidth 16 <<< 8 ||| p1.1.setWidth 16) + 1
        lastAccessWasRead := true
        sys := p2.2.tick }
      ∧ exec .rti s = .next { s with
        sp := s.sp + 3
        pc := p3.1.setWidth 16 <<< 8 ||| p2.1.setWidth 16
        flags := { n := p1.1.getLsbD 7, v := p1.1.getLsbD 6, b := p1.1.getLsbD 4, d := p1.1.getLsbD 3,
                   i := p1.1.getLsbD 2, z := p1.1.getLsbD 1, c := p1.1.getLsbD 0 }
        lastAccessWasRead := true
        sys := p3.2 }
      ∧ System.Kept [] s.sys p2.2.tick ∧ System.Kept [] s.sys p3.2

/-- BRK (42_control_flags.md R271), with PC past its opcode: the address after the padding byte and `P | 0x30` are pushed,
then B and I are set and PC is the word at $FFFE. -/
def Obligations.BreakInstruction : Prop :=
  ∀ s : State,
    let w := (s.idle.pushWord (s.pc + 1)).push (s.flags.toByte ||| 0x30)
    let r := w.read16 0xFFFE
    exec .brk s = .next { s with
        sp := s.sp - 3
        flags := { s.flags with b := true, i := true }
        pc := r.1
        lastAccessWasRead := true
        sys := r.2.sys }
      ∧ System.Kept (s.pushPlaces 3) s.sys r.2.sys
      ∧ (s.inv = true →
        (∀ l ∈ s.writePlaces (stackAddr s.sp), r.2.sys.byteAt l = hiByte (s.pc + 1))
        ∧ (∀ l ∈ s.writePlaces (stackAddr (s.sp - 1)), r.2.sys.byteAt l = loByte (s.pc + 1))
        ∧ ∀ l ∈ s.writePlaces (stackAddr (s.sp - 2)), r.2.sys.byteAt l = s.flags.toByte ||| 0x30)

/-- NOP and the seven flag instructions (42_control_flags.md R273 to R280): opcode, two cycles, exactly the one flag named
written (none for NOP), nothing else changed. -/
def Obligations.NopAndFlagInstructions : Prop :=
  ∀ s : State,
    let next := fun f : Flags => Host.Outcome.next { s with flags := f, sys := s.sys.tick }
    (encode .nop = [0xEA] ∧ Instr.cost .nop s = 2 ∧ exec .nop s = next s.flags)
    ∧ (encode .clc = [0x18] ∧ Instr.cost .clc s = 2 ∧ exec .clc s = next { s.flags with c := false })
    ∧ (encode .cld = [0xD8] ∧ Instr.cost .cld s = 2 ∧ exec .cld s = next { s.flags with d := false })
    ∧ (encode .cli = [0x58] ∧ Instr.cost .cli s = 2 ∧ exec .cli s = next { s.flags with i := false })
    ∧ (encode .clv = [0xB8] ∧ Instr.cost .clv s = 2 ∧ exec .clv s = next { s.flags with v := false })
    ∧ (encode .sec = [0x38] ∧ Instr.cost .sec s = 2 ∧ exec .sec s = next { s.flags with c := true })
    ∧ (encode .sed = [0xF8] ∧ Instr.cost .sed s = 2 ∧ exec .sed s = next { s.flags with d := true })
    ∧ (encode .sei = [0x78] ∧ Instr.cost .sei s = 2 ∧ exec .sei s = next { s.flags with i := true })

/-- With the stack in RIOT RAM (20_memory.md R75), RTS after JSR returns to the byte after JSR with SP restored
(42_control_flags.md R269, R270); RTI after BRK returns past the padding byte with SP and the flags restored but B, which the
pushed byte carries set (R271, R272). In `s` PC is at JSR's high byte, or past BRK's opcode. -/
def Obligations.CallsAndTrapsReturn : Prop :=
  (∀ (lo : Byte) (s t : State), s.inv = true → 0x81 ≤ s.sp.toNat → exec (.jsr lo) s = .next t →
      ∃ u, exec .rts t = .next u ∧ u.pc = s.pc + 1 ∧ u.sp = s.sp ∧ u.a = s.a ∧ u.x = s.x ∧ u.y = s.y ∧ u.flags = s.flags)
    ∧ ∀ s t : State, s.inv = true → 0x82 ≤ s.sp.toNat → exec .brk s = .next t →
      ∃ u, exec .rti t = .next u ∧ u.pc = s.pc + 1 ∧ u.sp = s.sp ∧ u.a = s.a ∧ u.x = s.x ∧ u.y = s.y
        ∧ u.flags = { s.flags with b := true }

/-! ## The bus -/

/-- Masking and the data bus latch (20_memory.md R60, R62, R63): addresses that agree in their low 13 bits are one address;
an unlocked latch holds the byte last read or written, a locked one only a byte written. -/
def Obligations.BusMaskAndLatch : Prop :=
  ∀ (y : System) (p q : Word),
    (p.toNat % 0x2000 = q.toNat % 0x2000 → y.peek p = y.peek q ∧ ∀ v, y.poke p v = y.poke q v)
      ∧ (y.dataBusLocked = false → (y.peek p).2.dataBus = (y.peek p).1)
      ∧ (y.dataBusLocked = true → (y.peek p).2.dataBus = y.dataBus)
      ∧ ∀ v, (y.poke p v).dataBus = v

/-- RIOT RAM (20_memory.md R73, R75, R76, R78; 60_exceptions.md R322): every address with bit 12 clear, bit 7 set and bit 9
clear is `ram[a & 0x7F]`; a read has no effect on the RIOT; a write is read back at every mirror. -/
def Obligations.RiotRamMirrors : Prop :=
  ∀ (y : System) (p : Word), y.devices = attachOrder → Memory.wf 128 y.riot.ram = true →
    p.getLsbD 12 = false → p.getLsbD 7 = true → p.getLsbD 9 = false →
    (y.peek p).1 = y.riot.ram.read (p.toNat % 128) ∧ (y.peek p).2.riot = y.riot
      ∧ ∀ v, (y.poke p v).riot = { y.riot with ram := y.riot.ram.write (p.toNat % 128) v }
        ∧ ∀ q : Word, q.getLsbD 12 = false → q.getLsbD 7 = true → q.getLsbD 9 = false →
          p.toNat % 128 = q.toNat % 128 → ((y.poke p v).peek q).1 = v

/-- The cartridge window is `map(o)` after the hotspot of the same access, whether or not the page has a direct pointer
(20_memory.md R90, R92, R93): a read gives the ROM or RAM byte named, a draw at a write port, whose RAM byte becomes a draw;
a write stores only through a write port. FE then observes the access (R123). That the two draws are two numbered free bytes
is the model's form (assumption logs 7 and 15). -/
def Obligations.WindowAccessFollowsMap : Prop :=
  ∀ (y : System) (p : Word), y.devices = attachOrder → p.getLsbD 12 = true →
    let c := y.cart.hotspot (p.toNat % 4096)
    let observed := fun (d : Cart) (v : Byte) => if d.variant = .fe then d.feAccess (busAddr p) v else d
    match c.cell (p.toNat % 4096) with
    | .rom k => (y.peek p).1 = y.cart.rom.read k ∧ (y.peek p).2.cart = observed c (y.cart.rom.read k)
        ∧ ∀ v, (y.poke p v).cart = observed c v
    | .ramRead k => (y.peek p).1 = y.cart.ram.read k ∧ (y.peek p).2.cart = observed c (y.cart.ram.read k)
        ∧ ∀ v, (y.poke p v).cart = observed c v
    | .ramWrite k => (y.peek p).1 = Config.freeByte y.draws
        ∧ (y.peek p).2.cart = { c with ram := c.ram.write k (Config.freeByte (y.draws + 1)) }
        ∧ ∀ v, (y.poke p v).cart = { c with ram := c.ram.write k v }

/-- Which offsets switch, and to what (20_memory.md R96 to R102, R105 to R109): the F-series ranges, E0's three slot groups,
E7's ROM and RAM selects; no other variant has a window hotspot, and no other offset switches. -/
def Obligations.HotspotsPerVariant : Prop :=
  ∀ (c : Cart) (o : Nat), c.bankLocked = false →
    c.hotspot o =
      if c.variant = .f8 ∨ c.variant = .f8sc then
        (if o = 0xFF8 then { c with currentBank := 0 } else if o = 0xFF9 then { c with currentBank := 1 } else c)
      else if c.variant = .f6 ∨ c.variant = .f6sc then
        (if 0xFF6 ≤ o ∧ o ≤ 0xFF9 then { c with currentBank := o - 0xFF6 } else c)
      else if c.variant = .f4 ∨ c.variant = .f4sc then
        (if 0xFF4 ≤ o ∧ o ≤ 0xFFB then { c with currentBank := o - 0xFF4 } else c)
      else if c.variant = .e0 then
        (if 0xFE0 ≤ o ∧ o ≤ 0xFE7 then { c with currentBank := o - 0xFE0 }
         else if 0xFE8 ≤ o ∧ o ≤ 0xFEF then { c with slot1 := o - 0xFE8 }
         else if 0xFF0 ≤ o ∧ o ≤ 0xFF7 then { c with slot2 := o - 0xFF0 }
         else c)
      else if c.variant = .e7 then
        (if 0xFE0 ≤ o ∧ o ≤ 0xFE7 then { c with currentBank := o - 0xFE0 }
         else if 0xFE8 ≤ o ∧ o ≤ 0xFEB then { c with ramBank := o - 0xFE8 }
         else c)
      else c

/-- The bank lock and the wrap (20_memory.md R91): a locked cartridge keeps every bank register through `bank(b)` and through
every step; an unlocked one takes `b mod bank_count`. That the lock also holds 3E's `ram_selected` is the model's reading of
R91 and R104 (assumption log 22). -/
def Obligations.BankLockAndWrap : Prop :=
  (∀ (c : Cart) (b : Nat), c.bank b = if c.bankLocked then c else { c with currentBank := b % c.bankCount })
    ∧ ∀ s t : State, s.sys.cart.bankLocked = true → step s = .next t →
      t.sys.cart.currentBank = s.sys.cart.currentBank ∧ t.sys.cart.slot1 = s.sys.cart.slot1
        ∧ t.sys.cart.slot2 = s.sys.cart.slot2 ∧ t.sys.cart.ramBank = s.sys.cart.ramBank
        ∧ t.sys.cart.ramSelected = s.sys.cart.ramSelected

/-- The TIA pages 3F, 3E and UA take, unlocked (20_memory.md R103, R104, R107): the switch, then the same access at the TIA,
whose peeks are draws (R77); that a draw is a numbered free byte is the model's form (assumption log 7). A locked cartridge
is the subject of `BankLockAndWrap`. -/
def Obligations.TrappedTiaPages : Prop :=
  ∀ (y : System) (p : Word) (v : Byte), y.devices = attachOrder → y.cart.bankLocked = false →
    let a := p.toNat % 0x2000
    let c := y.cart
    let tia := fun d : Cart => ((y.setCart d).tiaPoke (busAddr p) v).setDataBus v
    (c.variant = .c3F → a < 0x40 → y.poke p v = tia { c with currentBank := v.toNat % c.bankCount }
        ∧ (y.peek p).1 = Config.freeByte y.draws ∧ (y.peek p).2.cart = c)
      ∧ (c.variant = .c3E → a < 0x40 →
        y.poke p v = tia (if a = 0x3F then { c with currentBank := v.toNat % c.bankCount, ramSelected := false }
          else if a = 0x3E then { c with ramBank := v.toNat % 32, ramSelected := true } else c)
        ∧ (y.peek p).1 = Config.freeByte y.draws ∧ (y.peek p).2.cart = c)
      ∧ (c.variant = .ua → 0x200 ≤ a → a < 0x280 →
        let d := if busAddr p &&& 0x1260 = 0x0220 then { c with currentBank := 0 }
          else if busAddr p &&& 0x1260 = 0x0240 then { c with currentBank := 1 } else c
        y.poke p v = tia d ∧ (y.peek p).1 = Config.freeByte y.draws ∧ (y.peek p).2.cart = d)

/-- The FE switch (20_memory.md R123): after every completed peek or poke, at any address, an armed cartridge takes the bank
bit 5 of the byte selects (1 selects bank 0) unless locked, and is armed exactly if the address was $01FE. -/
def Obligations.FeSwitch : Prop :=
  ∀ (y : System) (p : Word), y.cart.variant = .fe → y.devices.contains .cart = true →
    let bank := fun d : Byte => if y.cart.feArmed && !y.cart.bankLocked then (if d.getLsbD 5 then 0 else 1) else y.cart.currentBank
    ((y.peek p).2.cart.currentBank = bank (y.peek p).1
        ∧ (y.peek p).2.cart.feArmed = decide (p.toNat % 0x2000 = 0x01FE))
      ∧ ∀ v, (y.poke p v).cart.currentBank = bank v ∧ (y.poke p v).cart.feArmed = decide (p.toNat % 0x2000 = 0x01FE)

/-! ## The RIOT -/

/-- The interval timer (60_exceptions.md R325, R326): a timer write sets count, interval, stamp and enable and clears
`timer_flag_cleared`; an INTIM read gives the count down, or after expiry counts down from $FF once a cycle (in the default
`continue_1T` setting) and sets `timer_flag_cleared`. -/
def Obligations.RiotTimer : Prop :=
  ∀ (y : System) (p : Word), y.devices = attachOrder →
    p.getLsbD 12 = false → p.getLsbD 9 = true → p.getLsbD 7 = true → p.getLsbD 2 = true →
    let d := (y.cycles - y.riot.timerSetCycle).toNat
    let e := y.riot.timerN.toNat * 2 ^ y.riot.timerInterval.shift
    (p.getLsbD 4 = true → ∀ v, (y.poke p v).riot.timerN = v
        ∧ (y.poke p v).riot.timerInterval.shift = [0, 3, 6, 10].getD (p.toNat % 4) 0
        ∧ (y.poke p v).riot.timerSetCycle = y.cycles ∧ (y.poke p v).riot.timerFlagCleared = false
        ∧ (y.poke p v).riot.timerIrqEn = p.getLsbD 3)
      ∧ (p.getLsbD 0 = false → (y.peek p).2.riot.timerIrqEn = p.getLsbD 3
        ∧ (d < e → (y.peek p).1 = BitVec.ofNat 8 (y.riot.timerN.toNat - 1 - d / 2 ^ y.riot.timerInterval.shift)
          ∧ (y.peek p).2.riot.timerFlagCleared = y.riot.timerFlagCleared)
        ∧ (e ≤ d → (y.peek p).2.riot.timerFlagCleared = true
          ∧ (y.cfg.underflow = .continue1T → (y.peek p).1 = BitVec.ofInt 8 (0xFF - (d - e)))))

/-- Ports, edge control and TIMINT (60_exceptions.md R323, R324, R327, R328): a port write sets its register, a data port
reads its output bits from the register and its input bits from pins, a direction register reads back; an edge-control
write sets the two bits of the address; a TIMINT read shows the timer flag in bit 7 and an already set `pa7_flag` in bit 6,
clears `pa7_flag` and leaves the timer flag. -/
def Obligations.RiotPortsAndFlags : Prop :=
  ∀ (y : System) (p : Word), y.devices = attachOrder → p.getLsbD 12 = false → p.getLsbD 9 = true → p.getLsbD 7 = true →
    let k := p.toNat % 4
    let r := y.riot
    (p.getLsbD 2 = false →
      (∀ v, let z := (y.poke p v).riot
        z.dra = (if k = 0 then v else r.dra) ∧ z.ddra = (if k = 1 then v else r.ddra)
          ∧ z.drb = (if k = 2 then v else r.drb) ∧ z.ddrb = (if k = 3 then v else r.ddrb))
      ∧ (k = 1 → (y.peek p).1 = r.ddra) ∧ (k = 3 → (y.peek p).1 = r.ddrb)
      ∧ (k = 0 → ∀ j, r.ddra.getLsbD j = true → (y.peek p).1.getLsbD j = r.dra.getLsbD j)
      ∧ (k = 2 → ∀ j, r.ddrb.getLsbD j = true → (y.peek p).1.getLsbD j = r.drb.getLsbD j))
    ∧ (p.getLsbD 2 = true → p.getLsbD 4 = false →
      ∀ v, (y.poke p v).riot.pa7IrqEn = p.getLsbD 1 ∧ (y.poke p v).riot.pa7EdgePos = p.getLsbD 0)
    ∧ (p.getLsbD 2 = true → p.getLsbD 0 = true →
      (y.peek p).1.getLsbD 7 = decide (r.timerN.toNat * 2 ^ r.timerInterval.shift ≤ (y.cycles - r.timerSetCycle).toNat
          ∧ r.timerFlagCleared = false)
        ∧ (r.pa7Flag = true → (y.peek p).1.getLsbD 6 = true)
        ∧ (y.peek p).2.riot.pa7Flag = false ∧ (y.peek p).2.riot.timerFlagCleared = r.timerFlagCleared)

/-! ## TIA audio -/

/-- A TIA write of register $15 to $1A first lets the callbacks due take the mutex, then enqueues `{register, byte, delta}`
stamped with the current cycle; with sound disabled, and for every other register, the audio state is unchanged
(20_memory.md R77, R82; 60_exceptions.md R341, R345, R346, R349). The callbacks due are the leading requests of the schedule
that wait for no write: each plays its fragment unless muted (R365, R375), and the next request waits for one write less.
The schedule as a list in the state is the model's form (assumption log 19). -/
def Obligations.SoundPokeEnqueues : Prop :=
  (∀ (y : System) (p : Word) (v : Byte), y.devices = attachOrder → p.getLsbD 12 = false → p.getLsbD 7 = false →
    let r := p.toNat % 64
    let u := y.audio.serveDue y.cfg y.audio.requests
    (y.poke p v).audio =
      if 0x15 ≤ r ∧ r ≤ 0x1A ∧ soundEnabled y.cfg = true then
        { u with
          queue := u.queue ++ [{
            addr := BitVec.ofNat 8 r
            value := v
            delta := F64.mul (F64.div (F64.ofNat (y.cycles - u.lastSetCycle).toNat) cpuClockHz)
              (F64.div y.cfg.frameRate y.cfg.frameRate) }]
          lastSetCycle := y.cycles }
      else y.audio)
  ∧ ∀ (cfg : Config) (u : Audio) (due rest : List CallbackRequest),
    (∀ r ∈ due, r.writes = 0) → (∀ r, rest.head? = some r → r.writes ≠ 0) →
    u.serveDue cfg (due ++ rest) =
      { due.foldl (fun w r => if w.muted then w else
            { (w.callback cfg r.length).2 with fragments := w.fragments ++ [(w.callback cfg r.length).1] }) u with
        requests := match rest with
          | [] => []
          | r :: rs => { r with writes := r.writes - 1 } :: rs }

/-- Register writes at the synthesizer (60_exceptions.md R340, R342): each of the six addresses is its channel's register; the
masked value is stored; the divider's period is 0 in modes 0 and 11, three times AUDF + 1 in modes 12 to 14, else AUDF + 1;
a changed period restarts a stopped divider and stops it when it is 0; polynomial positions and the output bit are
unchanged. -/
def Obligations.SynthRegisterWrite : Prop :=
  (∀ (u : Audio) (v : Byte), u.synthSet 0x15 v = { u with ch0 := u.ch0.setReg .audc v }
      ∧ u.synthSet 0x16 v = { u with ch1 := u.ch1.setReg .audc v } ∧ u.synthSet 0x17 v = { u with ch0 := u.ch0.setReg .audf v }
      ∧ u.synthSet 0x18 v = { u with ch1 := u.ch1.setReg .audf v } ∧ u.synthSet 0x19 v = { u with ch0 := u.ch0.setReg .audv v }
      ∧ u.synthSet 0x1A v = { u with ch1 := u.ch1.setReg .audv v })
  ∧ ∀ (r : SoundReg) (v : Byte) (ch : Channel),
    let t := ch.setReg r v
    let m := t.audc.toNat
    let period := if m = 0 ∨ m = 11 then 0 else if m = 12 ∨ m = 13 ∨ m = 14 then (t.audf.toNat + 1) * 3 else t.audf.toNat + 1
    t.audc = (if r = .audc then v.setWidth 4 else ch.audc)
      ∧ t.audf = (if r = .audf then v.setWidth 5 else ch.audf)
      ∧ t.audv = (if r = .audv then v.setWidth 4 else ch.audv)
      ∧ t.divMax.toNat = period
      ∧ t.divCnt = (if t.divMax ≠ ch.divMax ∧ (ch.divCnt = 0 ∨ period = 0) then t.divMax else ch.divCnt)
      ∧ t.p4 = ch.p4 ∧ t.p5 = ch.p5 ∧ t.p9 = ch.p9 ∧ t.out = ch.out ∧ t.div3Cnt = ch.div3Cnt

/-- A divider underflow by mode, as the table of 60_exceptions.md R343 summarises R351: the 5-bit position advances, then the
waveform advances under the mode's condition with the mode's action. -/
def Obligations.WaveformByMode : Prop :=
  ∀ (t : WaveTables) (ch : Channel), ch.divCnt = 1 →
    let q := ch.p5 + 1
    let base : Channel := { ch with divCnt := ch.divMax, p5 := q }
    let div31 := t.div31.getD q false
    let poly5 := t.poly5.getD q false
    let changed := poly5 != t.poly5.getD ch.p5 false
    let p4 : Channel := { base with p4 := ch.p4 + 1, out := t.poly4.getD (ch.p4 + 1 : Fin 15) false }
    let toggle : Channel := { base with out := !ch.out }
    ch.tick t =
      match ch.audc.toNat with
      | 0 => p4
      | 1 => p4
      | 2 => if div31 then p4 else base
      | 3 => if poly5 then p4 else base
      | 4 => toggle
      | 5 => toggle
      | 6 => if div31 then toggle else base
      | 7 => if poly5 then toggle else base
      | 8 => { base with p9 := ch.p9 + 1, out := t.poly9.getD (ch.p9 + 1 : Fin 511) false }
      | 9 => { base with out := poly5 }
      | 10 => if div31 then toggle else base
      | 11 => if poly5 then toggle else base
      | 12 => toggle
      | 13 => toggle
      | 14 => if div31 then toggle else base
      | _ => if changed then
          (if ch.div3Cnt = 1 then { base with div3Cnt := 3, out := !ch.out } else { base with div3Cnt := ch.div3Cnt - 1 })
        else base

/-- The fragment callback emits exactly the samples asked for, once per channel (60_exceptions.md R356, R360), and changes
nothing but the audio state. -/
def Obligations.CallbackEmitsWholeFragment : Prop :=
  ∀ (s : State) (n : Nat), Config.wf s.sys.cfg = true → soundEnabled s.sys.cfg = true → s.sys.audio.muted = false →
    (s.audioCallback n).1.length = n * s.sys.cfg.channels.count
      ∧ (s.audioCallback n).2 = { s with sys := { s.sys with audio := (s.audioCallback n).2.sys.audio } }

/-- The drain (60_exceptions.md R362): nothing while the queue lasts at most `fragment_log2 / frame_rate`; otherwise heads are
applied to the synthesizer in order until the rest lasts at most `(fragment_log2 - 1) / frame_rate` or is empty, and no
longer: before each drop the queue still lasts more than that. -/
def Obligations.DrainBoundsQueue : Prop :=
  ∀ (cfg : Config) (u : Audio),
    let log2 : Int := Nat.log2 cfg.fragSize
    (F64.lt (framesToSeconds cfg log2) (queueDuration u.queue) = false → u.drain cfg = u)
      ∧ (F64.lt (framesToSeconds cfg log2) (queueDuration u.queue) = true → ∃ dropped,
        u.queue = dropped ++ (u.drain cfg).queue
        ∧ u.drain cfg = { dropped.foldl (fun w e => w.synthSet e.addr e.value) u with queue := (u.drain cfg).queue }
        ∧ ((u.drain cfg).queue = [] ∨ F64.lt (framesToSeconds cfg (log2 - 1)) (queueDuration (u.drain cfg).queue) = false)
        ∧ ∀ before after, dropped = before ++ after → after ≠ [] →
          F64.lt (framesToSeconds cfg (log2 - 1)) (queueDuration (after ++ (u.drain cfg).queue)) = true)

/-- Starvation (60_exceptions.md R363): a callback that empties the queue leaves `last_register_set_cycle = 0`; one that does
not leaves it as it was. The queue never grows in a callback, and volume and mute stay. -/
def Obligations.StarvationZeroesStamp : Prop :=
  ∀ (cfg : Config) (n : Nat) (u : Audio),
    let w := (u.callback cfg n).2
    (w.queue = [] → w.lastSetCycle = 0) ∧ (w.queue ≠ [] → w.lastSetCycle = u.lastSetCycle)
      ∧ w.queue.length ≤ u.queue.length ∧ w.volume = u.volume ∧ w.muted = u.muted

/-! ## Host controls, reset, save -/

/-- The controls (60_exceptions.md R301, R307, R308, R365, R368; 10_state.md R31, R32): each sets what it names and nothing
else; mute also clears the queue; the volume is clamped to 0..100. A request for a callback joins the schedule, and the
fragments of served ones are handed over (the model's form of 20_memory.md R82, assumption log 19). -/
def Obligations.HostControls : Prop :=
  ∀ s : State,
    s.stop = { s with sys := { s.sys with status := { s.sys.status with stop := true } } }
    ∧ s.irq = { s with sys := { s.sys with status := { s.sys.status with irq := true } } }
    ∧ s.nmi = { s with sys := { s.sys with status := { s.sys.status with nmi := true } } }
    ∧ (∀ b, s.lockDataBus b = { s with sys := { s.sys with dataBusLocked := b } })
    ∧ (∀ b, s.lockBank b = { s with sys := { s.sys with cart := { s.sys.cart with bankLocked := b } } })
    ∧ s.mute true = { s with sys := { s.sys with audio := { s.sys.audio with queue := [], muted := true } } }
    ∧ s.mute false = { s with sys := { s.sys with audio := { s.sys.audio with muted := false } } }
    ∧ (∀ k n, s.requestCallback k n = { s with sys := { s.sys with
        audio := { s.sys.audio with requests := s.sys.audio.requests ++ [{ writes := k, length := n }] } } })
    ∧ s.takeFragments = (s.sys.audio.fragments, { s with sys := { s.sys with audio := { s.sys.audio with fragments := [] } } })
    ∧ ∀ p : Int, s.setVolume p = { s with sys := { s.sys with audio := { s.sys.audio with volume := (s.setVolume p).sys.audio.volume } } }
      ∧ ((s.setVolume p).sys.audio.volume.val : Int) = max 0 (min p 100)

/-- `System.reset()` (70_reset_and_hazards.md R400 to R405; 60_exceptions.md R332, R367; 20_memory.md R124): what the rules
fix. A, X, Y, IR, six flags, RIOT timer count and interval and both RAMs are draws, given by `cfg.resets`: their
defaults (assumption logs 1, 3, 4), and that every reset of a run takes the same ones (log 40), are the model's choice. PC is the word at $FFFC/$FFFD of the reset mapping. -/
def Obligations.SystemResetState : Prop :=
  ∀ s : State, s.sys.devices = attachOrder →
    let t := s.systemReset
    let c := s.sys.cart.reset s.sys.cfg.resets
    t.sp = s.sys.cfg.spReset.toByte ∧ t.flags.i = true ∧ t.instructionCount = s.instructionCount
      ∧ t.lastAccessWasRead = true
      ∧ t.sys.status = { stop := false, fatal := false, irq := false, nmi := false } ∧ t.sys.cycles = 0
      ∧ (∃ k k', c.cell 0xFFC = .rom k ∧ c.cell 0xFFD = .rom k'
        ∧ t.pc = (s.sys.cart.rom.read k').setWidth 16 <<< 8 ||| (s.sys.cart.rom.read k).setWidth 16
        ∧ t.sys.dataBus = if s.sys.dataBusLocked then s.sys.dataBus else s.sys.cart.rom.read k')
      ∧ t.sys.cart = c
      ∧ c.currentBank = (if c.variant = .f8 ∨ c.variant = .f8sc then 1 else if c.variant = .e0 then 4 else 0)
      ∧ c.slot1 = 5 ∧ c.slot2 = 6 ∧ c.ramSelected = false ∧ c.feArmed = false ∧ (c.variant = .e7 → c.ramBank = 0)
      ∧ c.rom = s.sys.cart.rom ∧ c.variant = s.sys.cart.variant ∧ c.bankLocked = s.sys.cart.bankLocked
      ∧ t.sys.riot.dra = 0 ∧ t.sys.riot.ddra = 0 ∧ t.sys.riot.drb = 0 ∧ t.sys.riot.ddrb = 0
      ∧ t.sys.riot.timerSetCycle = 0 ∧ t.sys.riot.timerFlagCleared = false ∧ t.sys.riot.timerIrqEn = false
      ∧ t.sys.riot.pa7IrqEn = false ∧ t.sys.riot.pa7EdgePos = false ∧ t.sys.riot.pa7Flag = false
      ∧ t.sys.audio = { s.sys.audio with
          ch0 := Channel.reset, ch1 := Channel.reset, outputCounter := 0, queue := [], lastSetCycle := 0 }
      ∧ t.sys.cfg = s.sys.cfg ∧ t.sys.devices = s.sys.devices ∧ t.sys.dataBusLocked = s.sys.dataBusLocked

/-- `reset_cycles()` (20_memory.md R67; 60_exceptions.md R333, R348): cycles become 0 and every stamp moves with them, so
every difference `cycles - stamp` is unchanged, as is everything else. -/
def Obligations.ResetCyclesRebases : Prop :=
  ∀ y : System, y.devices = attachOrder →
    let z := y.resetCycles
    z.cycles = 0 ∧ z.cycles - z.riot.timerSetCycle = y.cycles - y.riot.timerSetCycle
      ∧ z.cycles - z.audio.lastSetCycle = y.cycles - y.audio.lastSetCycle
      ∧ z = { y with
          cycles := 0
          riot := { y.riot with timerSetCycle := z.riot.timerSetCycle }
          audio := { y.audio with lastSetCycle := z.audio.lastSetCycle } }

/-- `patch` (20_memory.md R94): outside the window it answers false and changes nothing; where the mapping names a ROM byte
it answers true and writes it, and a read there that is no hotspot returns the patched value. -/
def Obligations.PatchWritesMappedByte : Prop :=
  ∀ (s : State) (p : Word) (v : Byte),
    (p.getLsbD 12 = false → s.patch p v = (false, s))
      ∧ (p.getLsbD 12 = true → ∀ k, s.sys.cart.cell (p.toNat % 4096) = .rom k →
        (s.patch p v).1 = true
        ∧ (s.patch p v).2 = { s with sys := { s.sys with cart := { s.sys.cart with rom := s.sys.cart.rom.write k v } } }
        ∧ (s.inv = true → s.sys.cart.hotspot (p.toNat % 4096) = s.sys.cart → ((s.patch p v).2.sys.peek p).1 = v))

/-- Save in one state of a machine, load in another (70_reset_and_hazards.md R442 to R446; 20_memory.md R95; 60_exceptions.md
R369): the load succeeds; every saved field is the saved one, every other is the loading state's, the audio queue is empty,
and the six synthesizer registers were applied by `synth_set` in their order, so registers and divider periods are the saved
ones. Loading in the very state that was saved only clears the queue. The key's length must fit the stream's 32-bit prefix
(R441). Which fields the stream holds beyond those rules is assumption log 17. -/
def Obligations.SaveLoadRoundTrip : Prop :=
  ∀ s t : State, s.inv = true → t.inv = true → t.sys.cart.variant = s.sys.cart.variant →
    t.sys.cart.romSize = s.sys.cart.romSize → t.sys.cart.romKey = s.sys.cart.romKey → s.sys.cart.romKey.length < 2 ^ 32 →
    let c := s.sys.cart
    let d := t.sys.cart
    let u := s.sys.audio
    let registers : List (Byte × Byte) := [(0x15, u.ch0.audc.setWidth 8), (0x16, u.ch1.audc.setWidth 8),
      (0x17, u.ch0.audf.setWidth 8), (0x18, u.ch1.audf.setWidth 8), (0x19, u.ch0.audv.setWidth 8),
      (0x1A, u.ch1.audv.setWidth 8)]
    let w : Audio := registers.foldl (fun w x => w.synthSet x.1 x.2) { t.sys.audio with queue := [] }
    t.load s.save = some { s with sys := { t.sys with
        cycles := s.sys.cycles
        status := s.sys.status
        riot := s.sys.riot
        cart := { d with
          ram := c.ram
          currentBank := c.currentBank
          slot1 := if c.variant = .e0 then c.slot1 else d.slot1
          slot2 := if c.variant = .e0 then c.slot2 else d.slot2
          ramBank := c.ramBank
          ramSelected := c.ramSelected
          feArmed := c.feArmed }
        audio := { w with lastSetCycle := u.lastSetCycle } } }
      ∧ w.ch0.audc = u.ch0.audc ∧ w.ch0.audf = u.ch0.audf ∧ w.ch0.audv = u.ch0.audv ∧ w.ch0.divMax = u.ch0.divMax
      ∧ w.ch1.audc = u.ch1.audc ∧ w.ch1.audf = u.ch1.audf ∧ w.ch1.audv = u.ch1.audv ∧ w.ch1.divMax = u.ch1.divMax
      ∧ s.load s.save = some { s with sys := { s.sys with audio := { u with queue := [] } } }

end
end

