-- ==== Sys2Proof/Laws/Audio.lean ====
section
/-! SUPPORT. What the synthesizer, the fragment callback, a sound write and the schedule between the two agents can do to the
audio state. -/

namespace Sys2Proof.Machine

/-! ## Channels -/

theorem Channel.wf_iff (ch : Channel) : ch.wf = true ↔ ch.divMax = dividerPeriod ch.audc ch.audf ∧ ch.div3Cnt ≠ 0 := by
  simp [Channel.wf]

/-- The divider update keeps everything but the divider, whose period is then that of the registers. -/
theorem Channel.redivide_eq (ch : Channel) : ch.redivide = { ch with
    divMax := dividerPeriod ch.audc ch.audf
    divCnt := ch.redivide.divCnt } := by
  unfold Channel.redivide
  simp only
  split
  · rename_i h; rw [h]
  · rfl

theorem Channel.wf_setReg (r : SoundReg) (v : Byte) {ch : Channel} (h : ch.wf = true) : (ch.setReg r v).wf = true := by
  rw [Channel.wf_iff] at h ⊢
  cases r <;> (unfold Channel.setReg; simp only; rw [Channel.redivide_eq]; exact ⟨rfl, h.2⟩)

/-- A waveform clock keeps the registers and the divider, and the divider by 3 stays between 1 and 3. -/
theorem Channel.clocked_keeps (t : WaveTables) (b : Bool) (ch : Channel) :
    (ch.clocked t b).audc = ch.audc ∧ (ch.clocked t b).audf = ch.audf ∧ (ch.clocked t b).divMax = ch.divMax
      ∧ (ch.div3Cnt ≠ 0 → (ch.clocked t b).div3Cnt ≠ 0) := by
  unfold Channel.clocked
  simp only
  repeat' split
  all_goals
    first
      | exact ⟨rfl, rfl, rfl, id⟩
      | exact ⟨rfl, rfl, rfl, fun _ => show (3 : BitVec 2) ≠ 0 by decide⟩
      | exact ⟨rfl, rfl, rfl, fun _ => by assumption⟩

theorem Channel.wf_tick (t : WaveTables) {ch : Channel} (h : ch.wf = true) : (ch.tick t).wf = true := by
  rw [Channel.wf_iff] at h ⊢
  unfold Channel.tick
  split
  · exact h
  · split
    · simp only
      split
      · obtain ⟨h1, h2, h3, h4⟩ := Channel.clocked_keeps t
          (seqAt t.poly5 (ch.p5 + 1 : Fin 31) != seqAt t.poly5 ch.p5) { ch with divCnt := ch.divMax, p5 := ch.p5 + 1 }
        rw [h1, h2, h3]
        exact ⟨h.1, h4 h.2⟩
      · exact h
    · exact h

/-! ## Synthesis and register writes -/

/-- What synthesis and `synth_set` leave alone, and the legal state they keep. -/
structure Audio.SynthOnly (u w : Audio) : Prop where
  queue : w.queue = u.queue
  lastSetCycle : w.lastSetCycle = u.lastSetCycle
  volume : w.volume = u.volume
  muted : w.muted = u.muted
  requests : w.requests = u.requests
  fragments : w.fragments = u.fragments
  ch0 : u.ch0.wf = true → w.ch0.wf = true
  ch1 : u.ch1.wf = true → w.ch1.wf = true

theorem Audio.SynthOnly.refl (u : Audio) : u.SynthOnly u := ⟨rfl, rfl, rfl, rfl, rfl, rfl, id, id⟩

theorem Audio.SynthOnly.trans {u v w : Audio} (h : u.SynthOnly v) (k : v.SynthOnly w) : u.SynthOnly w :=
  ⟨k.1.trans h.1, k.2.trans h.2, k.3.trans h.3, k.4.trans h.4, k.5.trans h.5, k.6.trans h.6, k.7 ∘ h.7, k.8 ∘ h.8⟩

theorem Audio.synthSet_only (r v : Byte) (u : Audio) : u.SynthOnly (u.synthSet r v) := by
  unfold Audio.synthSet
  split
  all_goals
    first
      | exact .refl u
      | exact ⟨rfl, rfl, rfl, rfl, rfl, rfl, Channel.wf_setReg _ v, id⟩
      | exact ⟨rfl, rfl, rfl, rfl, rfl, rfl, id, Channel.wf_setReg _ v⟩

theorem Audio.tick_only (cfg : Config) (u : Audio) : u.SynthOnly (u.tick cfg) :=
  ⟨rfl, rfl, rfl, rfl, rfl, rfl, Channel.wf_tick _, Channel.wf_tick _⟩

theorem Audio.setOutputCounter_only (c : U32) (u : Audio) : u.SynthOnly { u with outputCounter := c } :=
  ⟨rfl, rfl, rfl, rfl, rfl, rfl, id, id⟩

theorem Audio.emitReady_only (cfg : Config) : ∀ (k : Nat) (u : Audio), u.SynthOnly (Audio.emitReady cfg k u).2.2
  | 0, u => .refl u
  | k + 1, u => by
    simp only [Audio.emitReady]
    split
    · exact (Audio.setOutputCounter_only _ u).trans (Audio.emitReady_only cfg k _)
    · exact .refl u

theorem Audio.processLoop_only (cfg : Config) : ∀ (fuel k : Nat) (u : Audio), u.SynthOnly (Audio.processLoop cfg fuel k u).2
  | 0, _, u => .refl u
  | fuel + 1, k, u => by
    simp only [Audio.processLoop]
    split
    · exact .refl u
    · exact (((Audio.tick_only cfg u).trans (Audio.setOutputCounter_only _ _)).trans (Audio.emitReady_only cfg k _)).trans
        (Audio.processLoop_only cfg fuel _ _)

theorem Audio.process_only (cfg : Config) (k : Nat) (u : Audio) : u.SynthOnly (u.process cfg k).2 :=
  Audio.processLoop_only cfg _ k u

/-! ## The fragment callback -/

/-- What a callback leaves alone, what it does to queue and stamp (60_exceptions.md R360 to R363), and the legal state it
keeps: `q` is the queue it starts from. -/
structure Audio.Played (q : List QueueEntry) (u w : Audio) : Prop where
  volume : w.volume = u.volume
  muted : w.muted = u.muted
  requests : w.requests = u.requests
  fragments : w.fragments = u.fragments
  starved : w.queue = [] → w.lastSetCycle = 0
  fed : w.queue ≠ [] → w.lastSetCycle = u.lastSetCycle
  shorter : w.queue.length ≤ q.length
  wf : u.ch0.wf = true → u.ch1.wf = true → q.all QueueEntry.wf = true → w.wf = true

theorem Audio.wf_iff (u : Audio) : u.wf = true ↔ u.ch0.wf = true ∧ u.ch1.wf = true ∧ u.queue.all QueueEntry.wf = true := by
  simp [Audio.wf, and_assoc]

/-- Synthesis before the rest of a fragment. -/
theorem Audio.Played.after {q : List QueueEntry} {u v w : Audio} (h : u.SynthOnly v) (k : Audio.Played q v w) :
    Audio.Played q u w :=
  ⟨k.volume.trans h.volume, k.muted.trans h.muted, k.requests.trans h.requests, k.fragments.trans h.fragments, k.starved,
    fun e => (k.fed e).trans h.lastSetCycle, k.shorter, fun a b => k.wf (h.ch0 a) (h.ch1 b)⟩

theorem Audio.Played.cons {e : QueueEntry} {q : List QueueEntry} {u w : Audio} (k : Audio.Played q u w) :
    Audio.Played (e :: q) u w :=
  { k with
    shorter := Nat.le_succ_of_le k.shorter
    wf := fun a b h => k.wf a b (by simp only [List.all_cons, Bool.and_eq_true] at h; exact h.2) }

theorem Audio.fragment_played (cfg : Config) : ∀ (q : List QueueEntry) (position remaining : F64) (left : Nat) (u : Audio),
    Audio.Played q u (Audio.fragment cfg q position remaining left u).2
  | [], _, _, left, u => by
    have h := u.process_only cfg left
    exact ⟨h.volume, h.muted, h.requests, h.fragments, fun _ => rfl, fun k => absurd rfl k, Nat.le_refl _,
      fun a b _ => (Audio.wf_iff _).2 ⟨h.ch0 a, h.ch1 b, rfl⟩⟩
  | e :: q, position, remaining, left, u => by
    simp only [Audio.fragment]
    split
    · split
      · exact ((Audio.fragment_played cfg q _ _ _ _).after
          ((u.process_only cfg _).trans (Audio.synthSet_only e.addr e.value _))).cons
      · exact ((Audio.fragment_played cfg q _ _ _ _).after (u.synthSet_only e.addr e.value)).cons
    · have h := u.process_only cfg left
      exact ⟨h.volume, h.muted, h.requests, h.fragments, fun k => by simp at k, fun _ => h.lastSetCycle, by simp,
        fun a b c => (Audio.wf_iff _).2 ⟨h.ch0 a, h.ch1 b, by simpa [QueueEntry.wf] using c⟩⟩

/-- What the drain leaves alone, and the legal state it keeps. -/
theorem Audio.drainTo_keeps (bound : F64) : ∀ (q : List QueueEntry) (u : Audio),
    let w := Audio.drainTo bound q u
    w.lastSetCycle = u.lastSetCycle ∧ w.volume = u.volume ∧ w.muted = u.muted ∧ w.requests = u.requests
      ∧ w.fragments = u.fragments ∧ w.queue.length ≤ q.length
      ∧ (u.ch0.wf = true → u.ch1.wf = true → q.all QueueEntry.wf = true → w.wf = true)
  | [], u => ⟨rfl, rfl, rfl, rfl, rfl, Nat.le_refl _, fun a b _ => (Audio.wf_iff _).2 ⟨a, b, rfl⟩⟩
  | e :: q, u => by
    unfold Audio.drainTo
    split
    · have h := u.synthSet_only e.addr e.value
      obtain ⟨k1, k2, k3, k4, k5, k6, k7⟩ := Audio.drainTo_keeps bound q (u.synthSet e.addr e.value)
      exact ⟨k1.trans h.lastSetCycle, k2.trans h.volume, k3.trans h.muted, k4.trans h.requests, k5.trans h.fragments,
        Nat.le_succ_of_le k6, fun a b c => k7 (h.ch0 a) (h.ch1 b) (by simp only [List.all_cons, Bool.and_eq_true] at c; exact c.2)⟩
    · exact ⟨rfl, rfl, rfl, rfl, rfl, Nat.le_refl _, fun a b c => (Audio.wf_iff _).2 ⟨a, b, c⟩⟩

theorem Audio.drain_keeps (cfg : Config) (u : Audio) :
    let w := u.drain cfg
    w.lastSetCycle = u.lastSetCycle ∧ w.volume = u.volume ∧ w.muted = u.muted ∧ w.requests = u.requests
      ∧ w.fragments = u.fragments ∧ w.queue.length ≤ u.queue.length ∧ (u.wf = true → w.wf = true) := by
  unfold Audio.drain
  split
  · obtain ⟨k1, k2, k3, k4, k5, k6, k7⟩ := Audio.drainTo_keeps (framesToSeconds cfg ((fragmentLog2 cfg : Int) - 1)) u.queue u
    exact ⟨k1, k2, k3, k4, k5, k6, fun h => k7 ((Audio.wf_iff u).1 h).1 ((Audio.wf_iff u).1 h).2.1 ((Audio.wf_iff u).1 h).2.2⟩
  · exact ⟨rfl, rfl, rfl, rfl, rfl, Nat.le_refl _, id⟩

/-- A callback: volume, mute and schedule stay, the stamp is 0 exactly if the queue emptied, and a legal state stays legal. -/
theorem Audio.callback_keeps (cfg : Config) (n : Nat) (u : Audio) :
    let w := (u.callback cfg n).2
    w.volume = u.volume ∧ w.muted = u.muted ∧ w.requests = u.requests ∧ w.fragments = u.fragments
      ∧ (w.queue = [] → w.lastSetCycle = 0) ∧ (w.queue ≠ [] → w.lastSetCycle = u.lastSetCycle)
      ∧ w.queue.length ≤ u.queue.length ∧ (u.wf = true → w.wf = true) := by
  obtain ⟨d1, d2, d3, d4, d5, d6, d7⟩ := u.drain_keeps cfg
  have k := Audio.fragment_played cfg (u.drain cfg).queue F64.zero (F64.ofNat n) n (u.drain cfg)
  exact ⟨k.volume.trans d2, k.muted.trans d3, k.requests.trans d4, k.fragments.trans d5, k.starved,
    fun h => (k.fed h).trans d1, Nat.le_trans k.shorter d6,
    fun h => k.wf ((Audio.wf_iff _).1 (d7 h)).1 ((Audio.wf_iff _).1 (d7 h)).2.1 ((Audio.wf_iff _).1 (d7 h)).2.2⟩

/-! ## The schedule and sound writes -/

theorem Audio.serve_keeps (cfg : Config) (n : Nat) (u : Audio) : (u.serve cfg n).volume = u.volume
    ∧ (u.serve cfg n).muted = u.muted ∧ (u.serve cfg n).requests = u.requests ∧ (u.wf = true → (u.serve cfg n).wf = true) := by
  unfold Audio.serve
  split
  · exact ⟨rfl, rfl, rfl, id⟩
  · obtain ⟨k1, k2, k3, -, -, -, -, k8⟩ := u.callback_keeps cfg n
    exact ⟨k1, k2, k3, k8⟩

theorem Audio.serveDue_keeps (cfg : Config) : ∀ (rs : List CallbackRequest) (u : Audio),
    (u.serveDue cfg rs).volume = u.volume ∧ (u.serveDue cfg rs).muted = u.muted
      ∧ (u.wf = true → (u.serveDue cfg rs).wf = true)
  | [], u => ⟨rfl, rfl, id⟩
  | r :: rs, u => by
    unfold Audio.serveDue
    split
    · obtain ⟨k1, k2, -, k4⟩ := u.serve_keeps cfg r.length
      obtain ⟨h1, h2, h3⟩ := Audio.serveDue_keeps cfg rs (u.serve cfg r.length)
      exact ⟨h1.trans k1, h2.trans k2, fun h => h3 (k4 h)⟩
    · exact ⟨rfl, rfl, id⟩

/-- With no callback scheduled, a sound write is the write alone. -/
theorem Audio.set_idle (cfg : Config) (r v : Byte) (t : U32) {u : Audio} (h : u.requests = []) :
    u.set cfg r v t = if soundEnabled cfg then u.enqueue cfg r v t else u := by
  obtain ⟨ch0, ch1, oc, q, last, vol, m, rq, fr⟩ := u
  subst h
  rfl

theorem Audio.set_keeps (cfg : Config) (r v : Byte) (t : U32) (u : Audio) : (u.set cfg r v t).volume = u.volume
    ∧ (u.set cfg r v t).muted = u.muted := by
  unfold Audio.set
  split
  · exact ⟨(Audio.serveDue_keeps cfg u.requests u).1, (Audio.serveDue_keeps cfg u.requests u).2.1⟩
  · exact ⟨rfl, rfl⟩

theorem Audio.wf_enqueue {cfg : Config} {r v : Byte} {t : U32} {u : Audio} (h : u.wf = true) (hr : isSoundReg r = true) :
    (u.enqueue cfg r v t).wf = true := by
  rw [Audio.wf_iff] at h ⊢
  refine ⟨h.1, h.2.1, ?_⟩
  simpa [Audio.enqueue, QueueEntry.wf, List.all_append, hr] using h.2.2

theorem Audio.wf_set {cfg : Config} {r v : Byte} {t : U32} {u : Audio} (h : u.wf = true) (hr : isSoundReg r = true) :
    (u.set cfg r v t).wf = true := by
  unfold Audio.set
  split
  · exact Audio.wf_enqueue ((Audio.serveDue_keeps cfg u.requests u).2.2 h) hr
  · exact h

/-- With no callback scheduled, sound writes leave the synthesizer alone and the queue grows at its tail. -/
theorem Audio.writes_idle (cfg : Config) : ∀ (ws : List SoundWrite) (u : Audio), u.requests = [] →
    let w := u.writes cfg ws
    w.ch0 = u.ch0 ∧ w.ch1 = u.ch1 ∧ w.outputCounter = u.outputCounter ∧ w.fragments = u.fragments ∧ w.requests = []
      ∧ ∃ new, w.queue = u.queue ++ new
  | [], u, h => ⟨rfl, rfl, rfl, rfl, h, [], (List.append_nil _).symm⟩
  | x :: ws, u, h => by
    have e := Audio.set_idle cfg x.reg x.value x.cycle h
    have k : (u.set cfg x.reg x.value x.cycle).requests = [] ∧ (u.set cfg x.reg x.value x.cycle).ch0 = u.ch0
        ∧ (u.set cfg x.reg x.value x.cycle).ch1 = u.ch1
        ∧ (u.set cfg x.reg x.value x.cycle).outputCounter = u.outputCounter
        ∧ (u.set cfg x.reg x.value x.cycle).fragments = u.fragments
        ∧ ∃ new, (u.set cfg x.reg x.value x.cycle).queue = u.queue ++ new := by
      rw [e]
      split
      · exact ⟨h, rfl, rfl, rfl, rfl, _, rfl⟩
      · exact ⟨h, rfl, rfl, rfl, rfl, [], (List.append_nil _).symm⟩
    obtain ⟨k1, k2, k3, k4, k5, n1, k6⟩ := k
    obtain ⟨h1, h2, h3, h4, h5, n2, h6⟩ := Audio.writes_idle cfg ws _ k1
    exact ⟨h1.trans k2, h2.trans k3, h3.trans k4, h4.trans k5, h5, n1 ++ n2, by
      rw [← List.append_assoc, ← k6]; exact h6⟩

theorem Audio.writes_append (cfg : Config) (ws xs : List SoundWrite) (u : Audio) :
    u.writes cfg (ws ++ xs) = (u.writes cfg ws).writes cfg xs := List.foldl_append ..

end Sys2Proof.Machine
end

