-- ==== Sys2Proof/Laws/Memory.lean ====
section
/-! SUPPORT. The byte stores: a read after a write, and the canonical form kept by every write. -/

namespace Sys2Proof.Machine

@[simp] theorem Memory.read_nil (k : Nat) : Memory.read [] k = Memory.fill := rfl

theorem Memory.wfFrom_mono {size lo lo' : Nat} (h : lo' ≤ lo) :
    ∀ {m : Memory}, Memory.wfFrom size lo m = true → Memory.wfFrom size lo' m = true
  | [], _ => rfl
  | (i, v) :: m, hm => by
    simp only [Memory.wfFrom, Bool.and_eq_true, decide_eq_true_eq] at hm ⊢
    exact ⟨⟨⟨by omega, hm.1.1.2⟩, hm.1.2⟩, hm.2⟩

/-- A byte below the first listed index reads as the fill byte. -/
theorem Memory.read_below {size : Nat} : ∀ {lo : Nat} {m : Memory}, Memory.wfFrom size lo m = true →
    ∀ {k : Nat}, k < lo → m.read k = Memory.fill
  | _, [], _, _, _ => rfl
  | lo, (i, v) :: m, hm, k, hk => by
    simp only [Memory.wfFrom, Bool.and_eq_true, decide_eq_true_eq] at hm
    have hi : i ≠ k := by omega
    simpa [Memory.read, hi] using Memory.read_below hm.2 (k := k) (by omega)

/-- In a canonical store a write sets its byte and no other. -/
theorem Memory.read_write {size : Nat} (k j : Nat) (v : Byte) : ∀ {lo : Nat} {m : Memory},
    Memory.wfFrom size lo m = true → (m.write k v).read j = if j = k then v else m.read j
  | _, [], _ => by
    by_cases hv : v = Memory.fill <;> by_cases hj : j = k <;>
      simp [Memory.write, Memory.read, hv, hj, eq_comm]
    intro h; exact absurd h.symm hj
  | lo, (i, w) :: m, hm => by
    simp only [Memory.wfFrom, Bool.and_eq_true, decide_eq_true_eq] at hm
    have ih := Memory.read_write k j v hm.2
    have below : ∀ {n}, n < i + 1 → Memory.read m n = Memory.fill := fun h => Memory.read_below hm.2 h
    unfold Memory.write
    by_cases hki : k < i
    · rw [if_pos hki]
      by_cases hv : v = Memory.fill
      · by_cases hj : j = k
        · subst hj
          have : i ≠ j := by omega
          simp [hv, Memory.read, this, below (show j < i + 1 by omega)]
        · simp [hv, hj]
      · by_cases hj : j = k
        · simp [hv, hj, Memory.read]
        · have : k ≠ j := fun h => hj h.symm
          simp [hv, hj, Memory.read, this]
    · rw [if_neg hki]
      by_cases hk : k = i
      · subst hk
        by_cases hj : j = k
        · subst hj
          by_cases hv : v = Memory.fill
          · simp [hv, below (show j < j + 1 by omega)]
          · simp [hv, Memory.read]
        · have : k ≠ j := fun h => hj h.symm
          by_cases hv : v = Memory.fill <;> simp [hv, hj, this, Memory.read]
      · rw [if_neg hk]
        by_cases hj : i = j
        · subst hj
          have : i ≠ k := fun h => hk h.symm
          simp [Memory.read, this]
        · simp [Memory.read, hj, ih]

/-- Without any premise: a write changes no other byte than its own. -/
theorem Memory.read_write_other {k j : Nat} (h : j ≠ k) (v : Byte) : ∀ (m : Memory), (m.write k v).read j = m.read j
  | [] => by
    have : k ≠ j := fun e => h e.symm
    by_cases hv : v = Memory.fill <;> simp [Memory.write, Memory.read, hv, this]
  | (i, w) :: m => by
    have hkj : k ≠ j := fun e => h e.symm
    have ih := Memory.read_write_other h v m
    unfold Memory.write
    by_cases hki : k < i
    · by_cases hv : v = Memory.fill <;> simp [hki, hv, Memory.read, hkj]
    · by_cases hk : k = i
      · subst hk
        by_cases hv : v = Memory.fill <;> simp [hv, Memory.read, hkj]
      · rw [if_neg hki, if_neg hk]
        by_cases hj : i = j <;> simp [Memory.read, hj, ih]

/-- Every write keeps the canonical form. -/
theorem Memory.wfFrom_write {size k : Nat} (hk : k < size) (v : Byte) : ∀ {lo : Nat} {m : Memory},
    Memory.wfFrom size lo m = true → lo ≤ k → Memory.wfFrom size lo (m.write k v) = true
  | lo, [], _, hlo => by
    by_cases hv : v = Memory.fill <;> simp [Memory.write, Memory.wfFrom, hv, hlo, hk]
  | lo, (i, w) :: m, hm, hlo => by
    have hm' := hm
    simp only [Memory.wfFrom, Bool.and_eq_true, decide_eq_true_eq] at hm'
    unfold Memory.write
    by_cases hki : k < i
    · by_cases hv : v = Memory.fill
      · simpa [hki, hv] using hm
      · have h2 : Memory.wfFrom size (k + 1) ((i, w) :: m) = true := by
          simp only [Memory.wfFrom, Bool.and_eq_true, decide_eq_true_eq]
          exact ⟨⟨⟨by omega, hm'.1.1.2⟩, hm'.1.2⟩, hm'.2⟩
        simp [hki, hv]
        rw [Memory.wfFrom]
        simp [hlo, hk, hv, h2]
    · by_cases hk' : k = i
      · subst hk'
        by_cases hv : v = Memory.fill
        · simpa [hv] using Memory.wfFrom_mono (by omega) hm'.2
        · simp [hv, Memory.wfFrom, hlo, hk, hm'.2]
      · have ih := Memory.wfFrom_write hk v hm'.2 (show i + 1 ≤ k by omega)
        simp only [hki, hk', if_false]
        simp only [Memory.wfFrom, Bool.and_eq_true, decide_eq_true_eq]
        exact ⟨⟨⟨hm'.1.1.1, hm'.1.1.2⟩, hm'.1.2⟩, ih⟩

theorem Memory.wf_write {size k : Nat} {m : Memory} (h : Memory.wf size m = true) (hk : k < size) (v : Byte) :
    Memory.wf size (m.write k v) = true := Memory.wfFrom_write hk v h (Nat.zero_le k)

theorem Memory.read_write_wf {size : Nat} {m : Memory} (h : Memory.wf size m = true) (k j : Nat) (v : Byte) :
    (m.write k v).read j = if j = k then v else m.read j := Memory.read_write k j v h

end Sys2Proof.Machine
end

