-- ==== Sys2Proof/Laws/Cartridge.lean ====
section
/-! SUPPORT. What a bank operation can change, the legal bank state it keeps, and the range and page structure of the
window's mapping. -/

namespace Sys2Proof.Machine

/-! ## What bank operations leave alone -/

/-- `d` is `c` with other bank registers. -/
structure Cart.SameStores (c d : Cart) : Prop where
  variant : d.variant = c.variant
  romSize : d.romSize = c.romSize
  rom : d.rom = c.rom
  romKey : d.romKey = c.romKey
  ram : d.ram = c.ram
  bankLocked : d.bankLocked = c.bankLocked

theorem Cart.SameStores.refl (c : Cart) : c.SameStores c := ⟨rfl, rfl, rfl, rfl, rfl, rfl⟩

theorem Cart.SameStores.trans {c d e : Cart} (h : c.SameStores d) (k : d.SameStores e) : c.SameStores e :=
  ⟨k.1.trans h.1, k.2.trans h.2, k.3.trans h.3, k.4.trans h.4, k.5.trans h.5, k.6.trans h.6⟩

theorem Cart.switch_sameStores {c : Cart} {f : Cart → Cart} (h : c.SameStores (f c)) : c.SameStores (c.switch f) := by
  unfold Cart.switch
  split
  · exact .refl c
  · exact h

theorem Cart.bank_sameStores (b : Nat) (c : Cart) : c.SameStores (c.bank b) :=
  switch_sameStores ⟨rfl, rfl, rfl, rfl, rfl, rfl⟩

theorem Cart.selectSlot1_sameStores (b : Nat) (c : Cart) : c.SameStores (c.selectSlot1 b) :=
  switch_sameStores ⟨rfl, rfl, rfl, rfl, rfl, rfl⟩

theorem Cart.selectSlot2_sameStores (b : Nat) (c : Cart) : c.SameStores (c.selectSlot2 b) :=
  switch_sameStores ⟨rfl, rfl, rfl, rfl, rfl, rfl⟩

theorem Cart.selectRamBank_sameStores (b : Nat) (c : Cart) : c.SameStores (c.selectRamBank b) :=
  switch_sameStores ⟨rfl, rfl, rfl, rfl, rfl, rfl⟩

theorem Cart.select3ERom_sameStores (v : Byte) (c : Cart) : c.SameStores (c.select3ERom v) :=
  switch_sameStores ⟨rfl, rfl, rfl, rfl, rfl, rfl⟩

theorem Cart.select3ERam_sameStores (v : Byte) (c : Cart) : c.SameStores (c.select3ERam v) :=
  switch_sameStores ⟨rfl, rfl, rfl, rfl, rfl, rfl⟩

theorem Cart.rangeHotspot_sameStores (first o : Nat) (c : Cart) : c.SameStores (c.rangeHotspot first o) := by
  unfold Cart.rangeHotspot
  split
  · exact bank_sameStores _ c
  · exact .refl c

theorem Cart.e0Hotspot_sameStores (o : Nat) (c : Cart) : c.SameStores (c.e0Hotspot o) := by
  unfold Cart.e0Hotspot
  split
  · exact bank_sameStores _ c
  · split
    · exact selectSlot1_sameStores _ c
    · split
      · exact selectSlot2_sameStores _ c
      · exact .refl c

theorem Cart.e7Hotspot_sameStores (o : Nat) (c : Cart) : c.SameStores (c.e7Hotspot o) := by
  unfold Cart.e7Hotspot
  split
  · exact bank_sameStores _ c
  · split
    · exact selectRamBank_sameStores _ c
    · exact .refl c

theorem Cart.hotspot_sameStores (o : Nat) (c : Cart) : c.SameStores (c.hotspot o) := by
  unfold Cart.hotspot
  split <;>
    with_reducible
      first
      | exact rangeHotspot_sameStores _ _ c
      | exact e0Hotspot_sameStores _ c
      | exact e7Hotspot_sameStores _ c
      | exact .refl c

theorem Cart.uaHotspot_sameStores (a : BusAddr) (c : Cart) : c.SameStores (c.uaHotspot a) := by
  unfold Cart.uaHotspot
  split
  · exact bank_sameStores _ c
  · split
    · exact bank_sameStores _ c
    · exact .refl c

theorem Cart.trapPoke_sameStores (a : BusAddr) (v : Byte) (c : Cart) : c.SameStores (c.trapPoke a v) := by
  unfold Cart.trapPoke
  split
  · exact bank_sameStores _ c
  · split
    · exact select3ERom_sameStores v c
    · split
      · exact select3ERam_sameStores v c
      · exact .refl c
  · exact .refl c

theorem Cart.feAccess_sameStores (a : BusAddr) (d : Byte) (c : Cart) : c.SameStores (c.feAccess a d) := by
  have h : c.SameStores (if c.feArmed then ({ c with feArmed := false } : Cart).bank (if d.getLsbD 5 then 0 else 1) else c) := by
    split
    · exact Cart.SameStores.trans (d := { c with feArmed := false }) ⟨rfl, rfl, rfl, rfl, rfl, rfl⟩ (bank_sameStores _ _)
    · exact .refl c
  unfold Cart.feAccess
  simp only
  split
  · exact h.trans ⟨rfl, rfl, rfl, rfl, rfl, rfl⟩
  · exact h

/-! ## Legal bank state -/

/-- The bank registers name banks: `Cart.wf` without the stores. -/
def Cart.banksWf (c : Cart) : Bool :=
  c.variant.sizeOk c.romSize && decide (c.currentBank < c.bankCount) && decide (c.slot1 < 8) && decide (c.slot2 < 8)
    && decide (c.ramBank < c.variant.ramBanks) && (!c.ramSelected || c.variant == .c3E)
    && (!c.feArmed || c.variant == .fe)

theorem Cart.wf_iff (c : Cart) : c.wf = true ↔
    c.banksWf = true ∧ Memory.wf c.romSize c.rom = true ∧ Memory.wf c.variant.ramSize c.ram = true := by
  simp [Cart.wf, Cart.banksWf, Bool.and_eq_true, and_assoc]

theorem Cart.banksWf_iff (c : Cart) : c.banksWf = true ↔
    c.variant.sizeOk c.romSize = true ∧ c.currentBank < c.bankCount ∧ c.slot1 < 8 ∧ c.slot2 < 8
      ∧ c.ramBank < c.variant.ramBanks ∧ (c.ramSelected = true → c.variant = .c3E) ∧ (c.feArmed = true → c.variant = .fe) := by
  simp [Cart.banksWf, Bool.and_eq_true, and_assoc, or_iff_not_imp_left]

/-- An image of a legal size holds at least one bank. -/
theorem Cart.bankCount_pos {c : Cart} (h : c.variant.sizeOk c.romSize = true) : 0 < c.bankCount := by
  unfold Cart.bankCount
  unfold CartVariant.sizeOk at h
  cases hv : c.variant <;> rw [hv] at h <;> simp at h ⊢ <;> omega

theorem Cart.switch_banksWf {c : Cart} {f : Cart → Cart} (h : c.banksWf = true) (k : (f c).banksWf = true) :
    (c.switch f).banksWf = true := by
  unfold Cart.switch
  split <;> assumption

theorem Cart.bank_banksWf (b : Nat) {c : Cart} (h : c.banksWf = true) : (c.bank b).banksWf = true := by
  refine switch_banksWf h ?_
  rw [Cart.banksWf_iff] at h ⊢
  exact ⟨h.1, Nat.mod_lt _ (bankCount_pos h.1), h.2.2⟩

theorem Cart.selectSlot1_banksWf (b : Nat) {c : Cart} (h : c.banksWf = true) : (c.selectSlot1 b).banksWf = true := by
  refine switch_banksWf h ?_
  rw [Cart.banksWf_iff] at h ⊢
  exact ⟨h.1, h.2.1, Nat.mod_lt _ (by decide), h.2.2.2⟩

theorem Cart.selectSlot2_banksWf (b : Nat) {c : Cart} (h : c.banksWf = true) : (c.selectSlot2 b).banksWf = true := by
  refine switch_banksWf h ?_
  rw [Cart.banksWf_iff] at h ⊢
  exact ⟨h.1, h.2.1, h.2.2.1, Nat.mod_lt _ (by decide), h.2.2.2.2⟩

theorem Cart.selectRamBank_banksWf (b : Nat) {c : Cart} (h : c.banksWf = true) : (c.selectRamBank b).banksWf = true := by
  refine switch_banksWf h ?_
  rw [Cart.banksWf_iff] at h ⊢
  exact ⟨h.1, h.2.1, h.2.2.1, h.2.2.2.1, Nat.mod_lt _ (by omega), h.2.2.2.2.2⟩

theorem Cart.rangeHotspot_banksWf (first o : Nat) {c : Cart} (h : c.banksWf = true) :
    (c.rangeHotspot first o).banksWf = true := by
  unfold Cart.rangeHotspot
  split
  · exact bank_banksWf _ h
  · exact h

theorem Cart.e0Hotspot_banksWf (o : Nat) {c : Cart} (h : c.banksWf = true) : (c.e0Hotspot o).banksWf = true := by
  unfold Cart.e0Hotspot
  split
  · exact bank_banksWf _ h
  · split
    · exact selectSlot1_banksWf _ h
    · split
      · exact selectSlot2_banksWf _ h
      · exact h

theorem Cart.e7Hotspot_banksWf (o : Nat) {c : Cart} (h : c.banksWf = true) : (c.e7Hotspot o).banksWf = true := by
  unfold Cart.e7Hotspot
  split
  · exact bank_banksWf _ h
  · split
    · exact selectRamBank_banksWf _ h
    · exact h

theorem Cart.hotspot_banksWf (o : Nat) {c : Cart} (h : c.banksWf = true) : (c.hotspot o).banksWf = true := by
  unfold Cart.hotspot
  split <;>
    with_reducible
      first
      | exact rangeHotspot_banksWf _ _ h
      | exact e0Hotspot_banksWf _ h
      | exact e7Hotspot_banksWf _ h
      | exact h

theorem Cart.uaHotspot_banksWf (a : BusAddr) {c : Cart} (h : c.banksWf = true) : (c.uaHotspot a).banksWf = true := by
  unfold Cart.uaHotspot
  split
  · exact bank_banksWf _ h
  · split
    · exact bank_banksWf _ h
    · exact h

theorem Cart.trapPoke_banksWf (a : BusAddr) (v : Byte) {c : Cart} (h : c.banksWf = true) :
    (c.trapPoke a v).banksWf = true := by
  unfold Cart.trapPoke
  split
  · exact bank_banksWf _ h
  · rename_i hv
    have h' := (Cart.banksWf_iff c).1 h
    split
    · refine switch_banksWf h ?_
      rw [Cart.banksWf_iff]
      exact ⟨h'.1, Nat.mod_lt _ (bankCount_pos h'.1), h'.2.2.1, h'.2.2.2.1, h'.2.2.2.2.1, (by simp), h'.2.2.2.2.2.2⟩
    · split
      · refine switch_banksWf h ?_
        rw [Cart.banksWf_iff]
        refine ⟨h'.1, h'.2.1, h'.2.2.1, h'.2.2.2.1, ?_, fun _ => hv, h'.2.2.2.2.2.2⟩
        rw [hv]
        exact Nat.mod_lt _ (by decide)
      · exact h
  · exact h

theorem Cart.feAccess_banksWf (a : BusAddr) (d : Byte) {c : Cart} (hv : c.variant = .fe) (h : c.banksWf = true) :
    (c.feAccess a d).banksWf = true := by
  have h0 : ∀ {e : Cart} (b : Bool), e.variant = .fe → e.banksWf = true → ({ e with feArmed := b } : Cart).banksWf = true := by
    intro e b he h
    have h' := (Cart.banksWf_iff e).1 h
    rw [Cart.banksWf_iff]
    exact ⟨h'.1, h'.2.1, h'.2.2.1, h'.2.2.2.1, h'.2.2.2.2.1, h'.2.2.2.2.2.1, fun _ => he⟩
  have h1 : (if c.feArmed then ({ c with feArmed := false } : Cart).bank (if d.getLsbD 5 then 0 else 1) else c).banksWf
      = true := by
    split
    · exact bank_banksWf _ (h0 false hv h)
    · exact h
  have hv1 : (if c.feArmed then ({ c with feArmed := false } : Cart).bank (if d.getLsbD 5 then 0 else 1) else c).variant
      = .fe := by
    split
    · rw [(bank_sameStores _ _).variant]; exact hv
    · exact hv
  unfold Cart.feAccess
  simp only
  split
  · exact h0 true hv1 h1
  · exact h1

/-- Legal banks over unchanged stores keep the cartridge legal. -/
theorem Cart.wf_of_sameStores {c d : Cart} (h : c.wf = true) (s : c.SameStores d) (k : d.banksWf = true) : d.wf = true := by
  rw [Cart.wf_iff] at h ⊢
  rw [s.variant, s.romSize, s.rom, s.ram]
  exact ⟨k, h.2⟩

theorem Cart.banksWf_of_wf {c : Cart} (h : c.wf = true) : c.banksWf = true := ((Cart.wf_iff c).1 h).1

/-! ## The mapping -/

/-- The byte a cell names lies inside its store. -/
def Cart.cellOk (c : Cart) : Cell → Prop
  | .rom k => k < c.romSize
  | .ramRead k => k < c.variant.ramSize
  | .ramWrite k => k < c.variant.ramSize

theorem Cart.cell_ok {c : Cart} (h : c.banksWf = true) {o : Nat} (ho : o < 4096) : c.cellOk (c.cell o) := by
  obtain ⟨hs, hb, h1, h2, hr, -⟩ := (Cart.banksWf_iff c).1 h
  unfold Cart.cell Cart.bankCount at *
  cases hv : c.variant <;> rw [hv] at hs hb hr <;>
    simp [CartVariant.sizeOk, CartVariant.ramBanks, Cart.cell4K, Cart.cellSC, Cart.cell3F, Cart.cell3E, Cart.cellE7,
      Cart.cellCV, Cart.slotBank, Cart.bankCount, hv] at hs hb hr ⊢ <;>
    (repeat' split) <;> simp only [Cart.cellOk, hv, CartVariant.ramSize] <;> omega

/-- A cell moved by `d` bytes. -/
def Cell.shift (d : Nat) : Cell → Cell
  | .rom k => .rom (k + d)
  | .ramRead k => .ramRead (k + d)
  | .ramWrite k => .ramWrite (k + d)

/-- Inside a 64-byte page the mapping is linear, so a direct pointer to the page's first byte serves the whole page
(20_memory.md R90). -/
theorem Cart.cell_page (c : Cart) {o d : Nat} (ho : o % 64 = 0) (hd : d < 64) : c.cell (o + d) = (c.cell o).shift d := by
  unfold Cart.cell
  cases c.variant <;> cases hr : c.ramSelected <;>
    simp only [Cart.cell4K, Cart.cellSC, Cart.cell3F, Cart.cell3E, Cart.cellE7, Cart.cellCV, Cart.slotBank, hr, true_and,
      false_and, if_false, Bool.false_eq_true] <;>
    (repeat' split) <;> simp only [Cell.shift, Cell.rom.injEq, Cell.ramRead.injEq, Cell.ramWrite.injEq, reduceCtorEq] <;> omega

end Sys2Proof.Machine
end

