-- ==== Sys2Proof/Laws/State.lean ====
section
/-! SUPPORT. One lemma per field per update of the state and of the system, each true by `rfl`. -/

namespace Sys2Proof.Machine

/-! ## The state -/

@[simp] theorem State.setA_a (v : Byte) (s : State) : (s.setA v).a = v := rfl
@[simp] theorem State.setA_x (v : Byte) (s : State) : (s.setA v).x = s.x := rfl
@[simp] theorem State.setA_y (v : Byte) (s : State) : (s.setA v).y = s.y := rfl
@[simp] theorem State.setA_sp (v : Byte) (s : State) : (s.setA v).sp = s.sp := rfl
@[simp] theorem State.setA_pc (v : Byte) (s : State) : (s.setA v).pc = s.pc := rfl
@[simp] theorem State.setA_ir (v : Byte) (s : State) : (s.setA v).ir = s.ir := rfl
@[simp] theorem State.setA_flags (v : Byte) (s : State) : (s.setA v).flags = s.flags := rfl
@[simp] theorem State.setA_instructionCount (v : Byte) (s : State) : (s.setA v).instructionCount = s.instructionCount := rfl
@[simp] theorem State.setA_lastAccessWasRead (v : Byte) (s : State) : (s.setA v).lastAccessWasRead = s.lastAccessWasRead := rfl
@[simp] theorem State.setA_sys (v : Byte) (s : State) : (s.setA v).sys = s.sys := rfl

@[simp] theorem State.setX_a (v : Byte) (s : State) : (s.setX v).a = s.a := rfl
@[simp] theorem State.setX_x (v : Byte) (s : State) : (s.setX v).x = v := rfl
@[simp] theorem State.setX_y (v : Byte) (s : State) : (s.setX v).y = s.y := rfl
@[simp] theorem State.setX_sp (v : Byte) (s : State) : (s.setX v).sp = s.sp := rfl
@[simp] theorem State.setX_pc (v : Byte) (s : State) : (s.setX v).pc = s.pc := rfl
@[simp] theorem State.setX_ir (v : Byte) (s : State) : (s.setX v).ir = s.ir := rfl
@[simp] theorem State.setX_flags (v : Byte) (s : State) : (s.setX v).flags = s.flags := rfl
@[simp] theorem State.setX_instructionCount (v : Byte) (s : State) : (s.setX v).instructionCount = s.instructionCount := rfl
@[simp] theorem State.setX_lastAccessWasRead (v : Byte) (s : State) : (s.setX v).lastAccessWasRead = s.lastAccessWasRead := rfl
@[simp] theorem State.setX_sys (v : Byte) (s : State) : (s.setX v).sys = s.sys := rfl

@[simp] theorem State.setY_a (v : Byte) (s : State) : (s.setY v).a = s.a := rfl
@[simp] theorem State.setY_x (v : Byte) (s : State) : (s.setY v).x = s.x := rfl
@[simp] theorem State.setY_y (v : Byte) (s : State) : (s.setY v).y = v := rfl
@[simp] theorem State.setY_sp (v : Byte) (s : State) : (s.setY v).sp = s.sp := rfl
@[simp] theorem State.setY_pc (v : Byte) (s : State) : (s.setY v).pc = s.pc := rfl
@[simp] theorem State.setY_ir (v : Byte) (s : State) : (s.setY v).ir = s.ir := rfl
@[simp] theorem State.setY_flags (v : Byte) (s : State) : (s.setY v).flags = s.flags := rfl
@[simp] theorem State.setY_instructionCount (v : Byte) (s : State) : (s.setY v).instructionCount = s.instructionCount := rfl
@[simp] theorem State.setY_lastAccessWasRead (v : Byte) (s : State) : (s.setY v).lastAccessWasRead = s.lastAccessWasRead := rfl
@[simp] theorem State.setY_sys (v : Byte) (s : State) : (s.setY v).sys = s.sys := rfl

@[simp] theorem State.setSP_a (v : Byte) (s : State) : (s.setSP v).a = s.a := rfl
@[simp] theorem State.setSP_x (v : Byte) (s : State) : (s.setSP v).x = s.x := rfl
@[simp] theorem State.setSP_y (v : Byte) (s : State) : (s.setSP v).y = s.y := rfl
@[simp] theorem State.setSP_sp (v : Byte) (s : State) : (s.setSP v).sp = v := rfl
@[simp] theorem State.setSP_pc (v : Byte) (s : State) : (s.setSP v).pc = s.pc := rfl
@[simp] theorem State.setSP_ir (v : Byte) (s : State) : (s.setSP v).ir = s.ir := rfl
@[simp] theorem State.setSP_flags (v : Byte) (s : State) : (s.setSP v).flags = s.flags := rfl
@[simp] theorem State.setSP_instructionCount (v : Byte) (s : State) : (s.setSP v).instructionCount = s.instructionCount := rfl
@[simp] theorem State.setSP_lastAccessWasRead (v : Byte) (s : State) : (s.setSP v).lastAccessWasRead = s.lastAccessWasRead := rfl
@[simp] theorem State.setSP_sys (v : Byte) (s : State) : (s.setSP v).sys = s.sys := rfl

@[simp] theorem State.setPC_a (v : Word) (s : State) : (s.setPC v).a = s.a := rfl
@[simp] theorem State.setPC_x (v : Word) (s : State) : (s.setPC v).x = s.x := rfl
@[simp] theorem State.setPC_y (v : Word) (s : State) : (s.setPC v).y = s.y := rfl
@[simp] theorem State.setPC_sp (v : Word) (s : State) : (s.setPC v).sp = s.sp := rfl
@[simp] theorem State.setPC_pc (v : Word) (s : State) : (s.setPC v).pc = v := rfl
@[simp] theorem State.setPC_ir (v : Word) (s : State) : (s.setPC v).ir = s.ir := rfl
@[simp] theorem State.setPC_flags (v : Word) (s : State) : (s.setPC v).flags = s.flags := rfl
@[simp] theorem State.setPC_instructionCount (v : Word) (s : State) : (s.setPC v).instructionCount = s.instructionCount := rfl
@[simp] theorem State.setPC_lastAccessWasRead (v : Word) (s : State) : (s.setPC v).lastAccessWasRead = s.lastAccessWasRead := rfl
@[simp] theorem State.setPC_sys (v : Word) (s : State) : (s.setPC v).sys = s.sys := rfl

@[simp] theorem State.setIR_a (v : Byte) (s : State) : (s.setIR v).a = s.a := rfl
@[simp] theorem State.setIR_x (v : Byte) (s : State) : (s.setIR v).x = s.x := rfl
@[simp] theorem State.setIR_y (v : Byte) (s : State) : (s.setIR v).y = s.y := rfl
@[simp] theorem State.setIR_sp (v : Byte) (s : State) : (s.setIR v).sp = s.sp := rfl
@[simp] theorem State.setIR_pc (v : Byte) (s : State) : (s.setIR v).pc = s.pc := rfl
@[simp] theorem State.setIR_ir (v : Byte) (s : State) : (s.setIR v).ir = v := rfl
@[simp] theorem State.setIR_flags (v : Byte) (s : State) : (s.setIR v).flags = s.flags := rfl
@[simp] theorem State.setIR_instructionCount (v : Byte) (s : State) : (s.setIR v).instructionCount = s.instructionCount := rfl
@[simp] theorem State.setIR_lastAccessWasRead (v : Byte) (s : State) : (s.setIR v).lastAccessWasRead = s.lastAccessWasRead := rfl
@[simp] theorem State.setIR_sys (v : Byte) (s : State) : (s.setIR v).sys = s.sys := rfl

@[simp] theorem State.setFlags_a (v : Flags) (s : State) : (s.setFlags v).a = s.a := rfl
@[simp] theorem State.setFlags_x (v : Flags) (s : State) : (s.setFlags v).x = s.x := rfl
@[simp] theorem State.setFlags_y (v : Flags) (s : State) : (s.setFlags v).y = s.y := rfl
@[simp] theorem State.setFlags_sp (v : Flags) (s : State) : (s.setFlags v).sp = s.sp := rfl
@[simp] theorem State.setFlags_pc (v : Flags) (s : State) : (s.setFlags v).pc = s.pc := rfl
@[simp] theorem State.setFlags_ir (v : Flags) (s : State) : (s.setFlags v).ir = s.ir := rfl
@[simp] theorem State.setFlags_flags (v : Flags) (s : State) : (s.setFlags v).flags = v := rfl
@[simp] theorem State.setFlags_instructionCount (v : Flags) (s : State) : (s.setFlags v).instructionCount = s.instructionCount := rfl
@[simp] theorem State.setFlags_lastAccessWasRead (v : Flags) (s : State) : (s.setFlags v).lastAccessWasRead = s.lastAccessWasRead := rfl
@[simp] theorem State.setFlags_sys (v : Flags) (s : State) : (s.setFlags v).sys = s.sys := rfl

@[simp] theorem State.setInstructionCount_a (v : U32) (s : State) : (s.setInstructionCount v).a = s.a := rfl
@[simp] theorem State.setInstructionCount_x (v : U32) (s : State) : (s.setInstructionCount v).x = s.x := rfl
@[simp] theorem State.setInstructionCount_y (v : U32) (s : State) : (s.setInstructionCount v).y = s.y := rfl
@[simp] theorem State.setInstructionCount_sp (v : U32) (s : State) : (s.setInstructionCount v).sp = s.sp := rfl
@[simp] theorem State.setInstructionCount_pc (v : U32) (s : State) : (s.setInstructionCount v).pc = s.pc := rfl
@[simp] theorem State.setInstructionCount_ir (v : U32) (s : State) : (s.setInstructionCount v).ir = s.ir := rfl
@[simp] theorem State.setInstructionCount_flags (v : U32) (s : State) : (s.setInstructionCount v).flags = s.flags := rfl
@[simp] theorem State.setInstructionCount_instructionCount (v : U32) (s : State) : (s.setInstructionCount v).instructionCount = v := rfl
@[simp] theorem State.setInstructionCount_lastAccessWasRead (v : U32) (s : State) : (s.setInstructionCount v).lastAccessWasRead = s.lastAccessWasRead := rfl
@[simp] theorem State.setInstructionCount_sys (v : U32) (s : State) : (s.setInstructionCount v).sys = s.sys := rfl

@[simp] theorem State.setLastRead_a (v : Bool) (s : State) : (s.setLastRead v).a = s.a := rfl
@[simp] theorem State.setLastRead_x (v : Bool) (s : State) : (s.setLastRead v).x = s.x := rfl
@[simp] theorem State.setLastRead_y (v : Bool) (s : State) : (s.setLastRead v).y = s.y := rfl
@[simp] theorem State.setLastRead_sp (v : Bool) (s : State) : (s.setLastRead v).sp = s.sp := rfl
@[simp] theorem State.setLastRead_pc (v : Bool) (s : State) : (s.setLastRead v).pc = s.pc := rfl
@[simp] theorem State.setLastRead_ir (v : Bool) (s : State) : (s.setLastRead v).ir = s.ir := rfl
@[simp] theorem State.setLastRead_flags (v : Bool) (s : State) : (s.setLastRead v).flags = s.flags := rfl
@[simp] theorem State.setLastRead_instructionCount (v : Bool) (s : State) : (s.setLastRead v).instructionCount = s.instructionCount := rfl
@[simp] theorem State.setLastRead_lastAccessWasRead (v : Bool) (s : State) : (s.setLastRead v).lastAccessWasRead = v := rfl
@[simp] theorem State.setLastRead_sys (v : Bool) (s : State) : (s.setLastRead v).sys = s.sys := rfl

@[simp] theorem State.setSys_a (v : System) (s : State) : (s.setSys v).a = s.a := rfl
@[simp] theorem State.setSys_x (v : System) (s : State) : (s.setSys v).x = s.x := rfl
@[simp] theorem State.setSys_y (v : System) (s : State) : (s.setSys v).y = s.y := rfl
@[simp] theorem State.setSys_sp (v : System) (s : State) : (s.setSys v).sp = s.sp := rfl
@[simp] theorem State.setSys_pc (v : System) (s : State) : (s.setSys v).pc = s.pc := rfl
@[simp] theorem State.setSys_ir (v : System) (s : State) : (s.setSys v).ir = s.ir := rfl
@[simp] theorem State.setSys_flags (v : System) (s : State) : (s.setSys v).flags = s.flags := rfl
@[simp] theorem State.setSys_instructionCount (v : System) (s : State) : (s.setSys v).instructionCount = s.instructionCount := rfl
@[simp] theorem State.setSys_lastAccessWasRead (v : System) (s : State) : (s.setSys v).lastAccessWasRead = s.lastAccessWasRead := rfl
@[simp] theorem State.setSys_sys (v : System) (s : State) : (s.setSys v).sys = v := rfl

@[simp] theorem State.setNZ_a (v : Byte) (s : State) : (s.setNZ v).a = s.a := rfl
@[simp] theorem State.setNZ_x (v : Byte) (s : State) : (s.setNZ v).x = s.x := rfl
@[simp] theorem State.setNZ_y (v : Byte) (s : State) : (s.setNZ v).y = s.y := rfl
@[simp] theorem State.setNZ_sp (v : Byte) (s : State) : (s.setNZ v).sp = s.sp := rfl
@[simp] theorem State.setNZ_pc (v : Byte) (s : State) : (s.setNZ v).pc = s.pc := rfl
@[simp] theorem State.setNZ_ir (v : Byte) (s : State) : (s.setNZ v).ir = s.ir := rfl
@[simp] theorem State.setNZ_flags (v : Byte) (s : State) : (s.setNZ v).flags = s.flags.setNZ v := rfl
@[simp] theorem State.setNZ_instructionCount (v : Byte) (s : State) : (s.setNZ v).instructionCount = s.instructionCount := rfl
@[simp] theorem State.setNZ_lastAccessWasRead (v : Byte) (s : State) : (s.setNZ v).lastAccessWasRead = s.lastAccessWasRead := rfl
@[simp] theorem State.setNZ_sys (v : Byte) (s : State) : (s.setNZ v).sys = s.sys := rfl

@[simp] theorem State.idle_a (s : State) : s.idle.a = s.a := rfl
@[simp] theorem State.idle_x (s : State) : s.idle.x = s.x := rfl
@[simp] theorem State.idle_y (s : State) : s.idle.y = s.y := rfl
@[simp] theorem State.idle_sp (s : State) : s.idle.sp = s.sp := rfl
@[simp] theorem State.idle_pc (s : State) : s.idle.pc = s.pc := rfl
@[simp] theorem State.idle_ir (s : State) : s.idle.ir = s.ir := rfl
@[simp] theorem State.idle_flags (s : State) : s.idle.flags = s.flags := rfl
@[simp] theorem State.idle_instructionCount (s : State) : s.idle.instructionCount = s.instructionCount := rfl
@[simp] theorem State.idle_lastAccessWasRead (s : State) : s.idle.lastAccessWasRead = s.lastAccessWasRead := rfl
@[simp] theorem State.idle_sys (s : State) : s.idle.sys = s.sys.tick := rfl

/-! ## The system -/

@[simp] theorem System.setCycles_cycles (v : U32) (y : System) : (y.setCycles v).cycles = v := rfl
@[simp] theorem System.setCycles_dataBus (v : U32) (y : System) : (y.setCycles v).dataBus = y.dataBus := rfl
@[simp] theorem System.setCycles_dataBusLocked (v : U32) (y : System) : (y.setCycles v).dataBusLocked = y.dataBusLocked := rfl
@[simp] theorem System.setCycles_status (v : U32) (y : System) : (y.setCycles v).status = y.status := rfl
@[simp] theorem System.setCycles_devices (v : U32) (y : System) : (y.setCycles v).devices = y.devices := rfl
@[simp] theorem System.setCycles_riot (v : U32) (y : System) : (y.setCycles v).riot = y.riot := rfl
@[simp] theorem System.setCycles_cart (v : U32) (y : System) : (y.setCycles v).cart = y.cart := rfl
@[simp] theorem System.setCycles_audio (v : U32) (y : System) : (y.setCycles v).audio = y.audio := rfl
@[simp] theorem System.setCycles_cfg (v : U32) (y : System) : (y.setCycles v).cfg = y.cfg := rfl
@[simp] theorem System.setCycles_draws (v : U32) (y : System) : (y.setCycles v).draws = y.draws := rfl

@[simp] theorem System.setDataBus_cycles (v : Byte) (y : System) : (y.setDataBus v).cycles = y.cycles := rfl
@[simp] theorem System.setDataBus_dataBus (v : Byte) (y : System) : (y.setDataBus v).dataBus = v := rfl
@[simp] theorem System.setDataBus_dataBusLocked (v : Byte) (y : System) : (y.setDataBus v).dataBusLocked = y.dataBusLocked := rfl
@[simp] theorem System.setDataBus_status (v : Byte) (y : System) : (y.setDataBus v).status = y.status := rfl
@[simp] theorem System.setDataBus_devices (v : Byte) (y : System) : (y.setDataBus v).devices = y.devices := rfl
@[simp] theorem System.setDataBus_riot (v : Byte) (y : System) : (y.setDataBus v).riot = y.riot := rfl
@[simp] theorem System.setDataBus_cart (v : Byte) (y : System) : (y.setDataBus v).cart = y.cart := rfl
@[simp] theorem System.setDataBus_audio (v : Byte) (y : System) : (y.setDataBus v).audio = y.audio := rfl
@[simp] theorem System.setDataBus_cfg (v : Byte) (y : System) : (y.setDataBus v).cfg = y.cfg := rfl
@[simp] theorem System.setDataBus_draws (v : Byte) (y : System) : (y.setDataBus v).draws = y.draws := rfl

@[simp] theorem System.setStatus_cycles (v : ExecStatus) (y : System) : (y.setStatus v).cycles = y.cycles := rfl
@[simp] theorem System.setStatus_dataBus (v : ExecStatus) (y : System) : (y.setStatus v).dataBus = y.dataBus := rfl
@[simp] theorem System.setStatus_dataBusLocked (v : ExecStatus) (y : System) : (y.setStatus v).dataBusLocked = y.dataBusLocked := rfl
@[simp] theorem System.setStatus_status (v : ExecStatus) (y : System) : (y.setStatus v).status = v := rfl
@[simp] theorem System.setStatus_devices (v : ExecStatus) (y : System) : (y.setStatus v).devices = y.devices := rfl
@[simp] theorem System.setStatus_riot (v : ExecStatus) (y : System) : (y.setStatus v).riot = y.riot := rfl
@[simp] theorem System.setStatus_cart (v : ExecStatus) (y : System) : (y.setStatus v).cart = y.cart := rfl
@[simp] theorem System.setStatus_audio (v : ExecStatus) (y : System) : (y.setStatus v).audio = y.audio := rfl
@[simp] theorem System.setStatus_cfg (v : ExecStatus) (y : System) : (y.setStatus v).cfg = y.cfg := rfl
@[simp] theorem System.setStatus_draws (v : ExecStatus) (y : System) : (y.setStatus v).draws = y.draws := rfl

@[simp] theorem System.setRiot_cycles (v : Riot) (y : System) : (y.setRiot v).cycles = y.cycles := rfl
@[simp] theorem System.setRiot_dataBus (v : Riot) (y : System) : (y.setRiot v).dataBus = y.dataBus := rfl
@[simp] theorem System.setRiot_dataBusLocked (v : Riot) (y : System) : (y.setRiot v).dataBusLocked = y.dataBusLocked := rfl
@[simp] theorem System.setRiot_status (v : Riot) (y : System) : (y.setRiot v).status = y.status := rfl
@[simp] theorem System.setRiot_devices (v : Riot) (y : System) : (y.setRiot v).devices = y.devices := rfl
@[simp] theorem System.setRiot_riot (v : Riot) (y : System) : (y.setRiot v).riot = v := rfl
@[simp] theorem System.setRiot_cart (v : Riot) (y : System) : (y.setRiot v).cart = y.cart := rfl
@[simp] theorem System.setRiot_audio (v : Riot) (y : System) : (y.setRiot v).audio = y.audio := rfl
@[simp] theorem System.setRiot_cfg (v : Riot) (y : System) : (y.setRiot v).cfg = y.cfg := rfl
@[simp] theorem System.setRiot_draws (v : Riot) (y : System) : (y.setRiot v).draws = y.draws := rfl

@[simp] theorem System.setCart_cycles (v : Cart) (y : System) : (y.setCart v).cycles = y.cycles := rfl
@[simp] theorem System.setCart_dataBus (v : Cart) (y : System) : (y.setCart v).dataBus = y.dataBus := rfl
@[simp] theorem System.setCart_dataBusLocked (v : Cart) (y : System) : (y.setCart v).dataBusLocked = y.dataBusLocked := rfl
@[simp] theorem System.setCart_status (v : Cart) (y : System) : (y.setCart v).status = y.status := rfl
@[simp] theorem System.setCart_devices (v : Cart) (y : System) : (y.setCart v).devices = y.devices := rfl
@[simp] theorem System.setCart_riot (v : Cart) (y : System) : (y.setCart v).riot = y.riot := rfl
@[simp] theorem System.setCart_cart (v : Cart) (y : System) : (y.setCart v).cart = v := rfl
@[simp] theorem System.setCart_audio (v : Cart) (y : System) : (y.setCart v).audio = y.audio := rfl
@[simp] theorem System.setCart_cfg (v : Cart) (y : System) : (y.setCart v).cfg = y.cfg := rfl
@[simp] theorem System.setCart_draws (v : Cart) (y : System) : (y.setCart v).draws = y.draws := rfl

@[simp] theorem System.setAudio_cycles (v : Audio) (y : System) : (y.setAudio v).cycles = y.cycles := rfl
@[simp] theorem System.setAudio_dataBus (v : Audio) (y : System) : (y.setAudio v).dataBus = y.dataBus := rfl
@[simp] theorem System.setAudio_dataBusLocked (v : Audio) (y : System) : (y.setAudio v).dataBusLocked = y.dataBusLocked := rfl
@[simp] theorem System.setAudio_status (v : Audio) (y : System) : (y.setAudio v).status = y.status := rfl
@[simp] theorem System.setAudio_devices (v : Audio) (y : System) : (y.setAudio v).devices = y.devices := rfl
@[simp] theorem System.setAudio_riot (v : Audio) (y : System) : (y.setAudio v).riot = y.riot := rfl
@[simp] theorem System.setAudio_cart (v : Audio) (y : System) : (y.setAudio v).cart = y.cart := rfl
@[simp] theorem System.setAudio_audio (v : Audio) (y : System) : (y.setAudio v).audio = v := rfl
@[simp] theorem System.setAudio_cfg (v : Audio) (y : System) : (y.setAudio v).cfg = y.cfg := rfl
@[simp] theorem System.setAudio_draws (v : Audio) (y : System) : (y.setAudio v).draws = y.draws := rfl

@[simp] theorem System.setDraws_cycles (v : Nat) (y : System) : (y.setDraws v).cycles = y.cycles := rfl
@[simp] theorem System.setDraws_dataBus (v : Nat) (y : System) : (y.setDraws v).dataBus = y.dataBus := rfl
@[simp] theorem System.setDraws_dataBusLocked (v : Nat) (y : System) : (y.setDraws v).dataBusLocked = y.dataBusLocked := rfl
@[simp] theorem System.setDraws_status (v : Nat) (y : System) : (y.setDraws v).status = y.status := rfl
@[simp] theorem System.setDraws_devices (v : Nat) (y : System) : (y.setDraws v).devices = y.devices := rfl
@[simp] theorem System.setDraws_riot (v : Nat) (y : System) : (y.setDraws v).riot = y.riot := rfl
@[simp] theorem System.setDraws_cart (v : Nat) (y : System) : (y.setDraws v).cart = y.cart := rfl
@[simp] theorem System.setDraws_audio (v : Nat) (y : System) : (y.setDraws v).audio = y.audio := rfl
@[simp] theorem System.setDraws_cfg (v : Nat) (y : System) : (y.setDraws v).cfg = y.cfg := rfl
@[simp] theorem System.setDraws_draws (v : Nat) (y : System) : (y.setDraws v).draws = v := rfl

@[simp] theorem System.tick_cycles (y : System) : y.tick.cycles = y.cycles + BitVec.ofNat 32 y.cfg.spc := rfl
@[simp] theorem System.tick_dataBus (y : System) : y.tick.dataBus = y.dataBus := rfl
@[simp] theorem System.tick_dataBusLocked (y : System) : y.tick.dataBusLocked = y.dataBusLocked := rfl
@[simp] theorem System.tick_status (y : System) : y.tick.status = y.status := rfl
@[simp] theorem System.tick_devices (y : System) : y.tick.devices = y.devices := rfl
@[simp] theorem System.tick_riot (y : System) : y.tick.riot = y.riot := rfl
@[simp] theorem System.tick_cart (y : System) : y.tick.cart = y.cart := rfl
@[simp] theorem System.tick_audio (y : System) : y.tick.audio = y.audio := rfl
@[simp] theorem System.tick_cfg (y : System) : y.tick.cfg = y.cfg := rfl
@[simp] theorem System.tick_draws (y : System) : y.tick.draws = y.draws := rfl

/-- Two states with the same fields are equal. -/
theorem State.of_fields {s t : State} (ha : s.a = t.a) (hx : s.x = t.x) (hy : s.y = t.y) (hsp : s.sp = t.sp)
    (hpc : s.pc = t.pc) (hir : s.ir = t.ir) (hf : s.flags = t.flags) (hc : s.instructionCount = t.instructionCount)
    (hl : s.lastAccessWasRead = t.lastAccessWasRead) (hs : s.sys = t.sys) : s = t := by
  cases s; cases t
  simp only at ha hx hy hsp hpc hir hf hc hl hs
  subst ha hx hy hsp hpc hir hf hc hl hs
  rfl

end Sys2Proof.Machine
end

