-- ==== Sys2Proof/Laws/Bus.lean ====
section
/-! SUPPORT. What a peek and a poke can do: the fields they keep, the bytes they keep, the cycles they add, the invariant. -/

namespace Sys2Proof.Machine

/-! ## Addresses -/

theorem pageStart_eq (a : BusAddr) : pageStart a = (a >>> 6) <<< 6 := by
  apply BitVec.eq_of_getLsbD_eq
  intro i hi
  interval_cases i <;> simp [pageStart]

theorem pageStart_toNat (a : BusAddr) : (pageStart a).toNat = a.toNat / 64 * 64 := by
  have h : a.toNat < 8192 := a.isLt
  rw [pageStart_eq]
  simp only [BitVec.toNat_shiftLeft, BitVec.toNat_ushiftRight, Nat.shiftRight_eq_div_pow, Nat.shiftLeft_eq]
  omega

theorem pageOffset_eq (a : BusAddr) : pageOffset a = a.toNat % 64 := by
  simp [pageOffset]

theorem windowOffset_eq (a : BusAddr) : windowOffset a = a.toNat % 4096 := by
  simp [windowOffset]

theorem windowOffset_lt (a : BusAddr) : windowOffset a < 4096 := by
  rw [windowOffset_eq]; omega

theorem windowOffset_pageStart (a : BusAddr) : windowOffset a = windowOffset (pageStart a) + pageOffset a := by
  rw [windowOffset_eq, windowOffset_eq, pageOffset_eq, pageStart_toNat]
  omega

theorem windowOffset_pageStart_mod (a : BusAddr) : windowOffset (pageStart a) % 64 = 0 := by
  rw [windowOffset_eq, pageStart_toNat]
  omega

theorem pageOffset_lt (a : BusAddr) : pageOffset a < 64 := by
  rw [pageOffset_eq]; omega

@[simp] theorem pageStart_bit12 (a : BusAddr) : (pageStart a).getLsbD 12 = a.getLsbD 12 := by simp [pageStart]
@[simp] theorem pageStart_bit9 (a : BusAddr) : (pageStart a).getLsbD 9 = a.getLsbD 9 := by simp [pageStart]
@[simp] theorem pageStart_bit7 (a : BusAddr) : (pageStart a).getLsbD 7 = a.getLsbD 7 := by simp [pageStart]

theorem ramIndex_toNat (a : BusAddr) : (pageStart a &&& 0x7F).toNat + pageOffset a = (a &&& 0x7F).toNat := by
  rw [pageOffset_eq, BitVec.toNat_and, BitVec.toNat_and, pageStart_toNat]
  have h : ∀ n : Nat, n &&& 127 = n % 128 := fun n => Nat.and_two_pow_sub_one_eq_mod n 7
  simp only [show BitVec.toNat (0x7F : BusAddr) = 127 from rfl, h]
  omega

/-! ## Bytes -/

theorem System.BytesKept.refl (ls : List Loc) (y : System) : System.BytesKept ls y y := fun _ _ => rfl

theorem System.BytesKept.trans {ls ls' : List Loc} {y z w : System} (h : System.BytesKept ls y z)
    (k : System.BytesKept ls' z w) : System.BytesKept (ls ++ ls') y w := fun l hl => by
  rw [List.mem_append, not_or] at hl
  exact (k l hl.2).trans (h l hl.1)

theorem System.BytesKept.of_eq {ls : List Loc} {y z : System} (h : ∀ l, z.byteAt l = y.byteAt l) :
    System.BytesKept ls y z := fun l _ => h l

theorem System.BytesKept.mono {ls ls' : List Loc} {y z : System} (h : System.BytesKept ls y z) (s : ls ⊆ ls') :
    System.BytesKept ls' y z := fun l hl => h l fun hm => hl (s hm)

@[simp] theorem System.byteAt_setCycles (c : U32) (y : System) (l : Loc) : (y.setCycles c).byteAt l = y.byteAt l := rfl
@[simp] theorem System.byteAt_setDataBus (v : Byte) (y : System) (l : Loc) : (y.setDataBus v).byteAt l = y.byteAt l := rfl
@[simp] theorem System.byteAt_setStatus (e : ExecStatus) (y : System) (l : Loc) : (y.setStatus e).byteAt l = y.byteAt l := rfl
@[simp] theorem System.byteAt_setAudio (u : Audio) (y : System) (l : Loc) : (y.setAudio u).byteAt l = y.byteAt l := rfl
@[simp] theorem System.byteAt_setDraws (k : Nat) (y : System) (l : Loc) : (y.setDraws k).byteAt l = y.byteAt l := rfl
@[simp] theorem System.byteAt_tick (y : System) (l : Loc) : y.tick.byteAt l = y.byteAt l := rfl

theorem System.byteAt_setRiot {r : Riot} {y : System} (h : r.ram = y.riot.ram) (l : Loc) :
    (y.setRiot r).byteAt l = y.byteAt l := by
  unfold System.byteAt
  split <;> simp [h]

theorem System.byteAt_setCart {c : Cart} {y : System} (h : y.cart.SameStores c) (l : Loc) :
    (y.setCart c).byteAt l = y.byteAt l := by
  unfold System.byteAt
  split <;> simp [h.ram, h.rom]

theorem System.byteAt_storeAt_other {k l : Loc} (h : l ≠ k) (v : Byte) (y : System) :
    (y.storeAt k v).byteAt l = y.byteAt l := by
  obtain ⟨s, i⟩ := k
  obtain ⟨t, j⟩ := l
  have hne : s = t → j ≠ i := fun e e' => h (by rw [e, e'])
  cases s <;> cases t <;>
    simp [System.byteAt, System.storeAt, Memory.read_write_other, hne]

theorem System.storeAt_bytesKept (k : Loc) (v : Byte) (y : System) : System.BytesKept [k] y (y.storeAt k v) :=
  fun l hl => System.byteAt_storeAt_other (by simpa using hl) v y

/-! ## Steady fields -/

theorem Cart.SameBanks.refl (c : Cart) : c.SameBanks c := ⟨rfl, rfl, rfl, rfl, rfl⟩

theorem Cart.SameBanks.of_eq {c d : Cart} (h : d = c) : c.SameBanks d := h ▸ .refl d

theorem Cart.SameBanks.trans {c d e : Cart} (h : c.SameBanks d) (k : d.SameBanks e) : c.SameBanks e :=
  ⟨k.1.trans h.1, k.2.trans h.2, k.3.trans h.3, k.4.trans h.4, k.5.trans h.5⟩

/-- A locked cartridge's bank change changes nothing. -/
theorem Cart.switch_locked {c : Cart} (h : c.bankLocked = true) (f : Cart → Cart) : c.switch f = c := by
  unfold Cart.switch
  rw [if_pos h]

theorem Cart.hotspot_locked (o : Nat) {c : Cart} (h : c.bankLocked = true) : c.hotspot o = c := by
  unfold Cart.hotspot
  cases c.variant <;>
    simp only [Cart.rangeHotspot, Cart.e0Hotspot, Cart.e7Hotspot, Cart.bank, Cart.selectSlot1, Cart.selectSlot2,
      Cart.selectRamBank, Cart.switch_locked h, ite_self]

theorem Cart.uaHotspot_locked (a : BusAddr) {c : Cart} (h : c.bankLocked = true) : c.uaHotspot a = c := by
  simp only [Cart.uaHotspot, Cart.bank, Cart.switch_locked h, ite_self]

theorem Cart.trapPoke_locked (a : BusAddr) (v : Byte) {c : Cart} (h : c.bankLocked = true) : c.trapPoke a v = c := by
  unfold Cart.trapPoke
  cases c.variant <;>
    simp only [Cart.bank, Cart.select3ERom, Cart.select3ERam, Cart.switch_locked h, ite_self]

theorem Cart.feAccess_locked (a : BusAddr) (d : Byte) {c : Cart} (h : c.bankLocked = true) : c.SameBanks (c.feAccess a d) := by
  unfold Cart.feAccess Cart.bank Cart.switch
  simp only [h, if_true]
  (repeat' split) <;> exact ⟨rfl, rfl, rfl, rfl, rfl⟩

theorem System.Steady.refl (y : System) : y.Steady y := by
  constructor <;> first | rfl | exact ⟨[], rfl⟩ | exact fun _ => .refl _

theorem System.Steady.trans {y z w : System} (h : y.Steady z) (k : z.Steady w) : y.Steady w where
  cfg := k.cfg.trans h.cfg
  devices := k.devices.trans h.devices
  dataBusLocked := k.dataBusLocked.trans h.dataBusLocked
  fatal := k.fatal.trans h.fatal
  irq := k.irq.trans h.irq
  nmi := k.nmi.trans h.nmi
  variant := k.variant.trans h.variant
  romSize := k.romSize.trans h.romSize
  rom := k.rom.trans h.rom
  romKey := k.romKey.trans h.romKey
  bankLocked := k.bankLocked.trans h.bankLocked
  banks hl := (h.banks hl).trans (k.banks (h.bankLocked.trans hl))
  volume := k.volume.trans h.volume
  muted := k.muted.trans h.muted
  audio := by
    obtain ⟨ws, hw⟩ := h.audio
    obtain ⟨xs, hx⟩ := k.audio
    exact ⟨ws ++ xs, by rw [Audio.writes_append, ← hw, ← h.cfg]; exact hx⟩

theorem System.Steady.setCycles (c : U32) (y : System) : y.Steady (y.setCycles c) := by
  constructor <;> first | rfl | exact ⟨[], rfl⟩ | exact fun _ => .refl _

theorem System.Steady.tick (y : System) : y.Steady y.tick := .setCycles _ y

theorem System.Steady.setDataBus (v : Byte) (y : System) : y.Steady (y.setDataBus v) := by
  constructor <;> first | rfl | exact ⟨[], rfl⟩ | exact fun _ => .refl _

theorem System.Steady.setDraws (k : Nat) (y : System) : y.Steady (y.setDraws k) := by
  constructor <;> first | rfl | exact ⟨[], rfl⟩ | exact fun _ => .refl _

theorem System.Steady.setRiot (r : Riot) (y : System) : y.Steady (y.setRiot r) := by
  constructor <;> first | rfl | exact ⟨[], rfl⟩ | exact fun _ => .refl _

theorem System.Steady.setStop (b : Bool) (y : System) : y.Steady (y.setStatus { y.status with stop := b }) := by
  constructor <;> first | rfl | exact ⟨[], rfl⟩ | exact fun _ => .refl _

theorem System.Steady.setCart {c : Cart} {y : System} (h : y.cart.SameStores c)
    (k : y.cart.bankLocked = true → y.cart.SameBanks c) : y.Steady (y.setCart c) := by
  constructor <;> first | exact k | exact h.variant | exact h.romSize | exact h.rom | exact h.romKey | exact h.bankLocked | rfl | exact ⟨[], rfl⟩

theorem System.Steady.setAudioSet (r v : Byte) (t : U32) (y : System) :
    y.Steady (y.setAudio (y.audio.set y.cfg r v t)) := by
  obtain ⟨hv, hm⟩ := y.audio.set_keeps y.cfg r v t
  constructor <;> first | rfl | exact hv | exact hm | exact ⟨[⟨r, v, t⟩], rfl⟩ | exact fun _ => .refl _

/-- A store to RAM is steady; no pointer names the ROM for a store. -/
theorem System.Steady.storeAt {k : Loc} (h : k.store ≠ .cartRom) (v : Byte) (y : System) : y.Steady (y.storeAt k v) := by
  obtain ⟨s, i⟩ := k
  cases s
  · exact .setRiot _ y
  · constructor <;> first | rfl | exact ⟨[], rfl⟩ | exact fun _ => ⟨rfl, rfl, rfl, rfl, rfl⟩
  · exact absurd rfl h

/-! ## The page table -/

theorem System.pageAccess_cases (y : System) (a : BusAddr) :
    y.pageAccess a = nullPage ∨ ∃ d ∈ y.devices, y.installed (pageStart a) d = some (y.pageAccess a) := by
  have key : ∀ (ds : List DeviceId) (p : PageAccess),
      ds.foldl (fun p d => (y.installed (pageStart a) d).getD p) p = p
        ∨ ∃ d ∈ ds, y.installed (pageStart a) d = some (ds.foldl (fun p d => (y.installed (pageStart a) d).getD p) p) := by
    intro ds
    induction ds with
    | nil => exact fun p => .inl rfl
    | cons d ds ih =>
      intro p
      rw [List.foldl_cons]
      rcases ih ((y.installed (pageStart a) d).getD p) with h | ⟨e, he, h⟩
      · rw [h]
        cases hd : y.installed (pageStart a) d with
        | none => exact .inl rfl
        | some q => exact .inr ⟨d, List.mem_cons_self .., by simp [hd]⟩
      · exact .inr ⟨e, List.mem_cons_of_mem _ he, h⟩
  exact key y.devices nullPage

/-- The page table reads only the device list and the cartridge. -/
theorem System.pageAccess_congr {y z : System} (hd : z.devices = y.devices) (hc : z.cart = y.cart) (a : BusAddr) :
    z.pageAccess a = y.pageAccess a := by
  unfold System.pageAccess
  rw [hd]
  have : ∀ d, z.installed (pageStart a) d = y.installed (pageStart a) d := by
    intro d; cases d <;> simp [System.installed, hc]
  simp only [this]

@[simp] theorem System.pageAccess_setCycles (c : U32) (y : System) (a : BusAddr) :
    (y.setCycles c).pageAccess a = y.pageAccess a := System.pageAccess_congr rfl rfl a

@[simp] theorem System.pageAccess_tick (y : System) (a : BusAddr) : y.tick.pageAccess a = y.pageAccess a :=
  System.pageAccess_congr rfl rfl a

@[simp] theorem System.peekTarget_tick (y : System) (addr : Word) : y.tick.peekTarget addr = y.peekTarget addr := by
  simp [System.peekTarget, System.writePortAt]

@[simp] theorem System.pokeTarget_tick (y : System) (addr : Word) : y.tick.pokeTarget addr = y.pokeTarget addr := by
  simp [System.pokeTarget, System.writePortAt]

/-- A direct store pointer: RIOT RAM, or a write port of the window (20_memory.md R78, R90). -/
theorem System.directPoke_cases {y : System} {a : BusAddr} {l : Loc} (h : (y.pageAccess a).directPoke = some l) :
    (l = ⟨.riotRam, (pageStart a &&& 0x7F).toNat⟩ ∧ a.getLsbD 12 = false ∧ a.getLsbD 7 = true ∧ a.getLsbD 9 = false)
      ∨ (a.getLsbD 12 = true ∧ ∃ k, y.cart.cell (windowOffset (pageStart a)) = .ramWrite k ∧ l = ⟨.cartRam, k⟩) := by
  rcases y.pageAccess_cases a with hn | ⟨d, -, hd⟩
  · simp [hn, nullPage] at h
  · cases d
    · simp only [System.installed, riotPage, pageStart_bit12, pageStart_bit7, pageStart_bit9] at hd
      split at hd
      · rename_i hc
        split at hd
        · rw [← Option.some.inj hd] at h; simp at h
        · rename_i h9
          rw [← Option.some.inj hd] at h
          simp only [Option.some.injEq] at h
          simp at hc h9
          exact .inl ⟨h.symm, hc.1, hc.2, h9⟩
      · simp at hd
    · simp only [System.installed, tiaPage] at hd
      split at hd
      · rw [← Option.some.inj hd] at h; simp at h
      · simp at hd
    · simp only [System.installed, Cart.page, pageStart_bit12] at hd
      split at hd
      · rename_i h12
        right
        refine ⟨h12, ?_⟩
        rw [← Option.some.inj hd] at h
        unfold Cart.windowPage at h
        split at h
        · simp at h
        · split at h <;> simp at h
          rename_i k hk
          exact ⟨k, hk, h.symm⟩
      · split at hd
        · rw [← Option.some.inj hd] at h; simp at h
        · simp at hd
    · simp [System.installed] at hd

/-! ## Devices: bytes, steadiness, cycles -/

theorem Riot.pa7Edge_ram (e : Bool) (r : Riot) : (r.pa7Edge e).ram = r.ram := rfl

theorem Riot.poke_ram (a : BusAddr) (v : Byte) (t : U32) (r : Riot) : (r.poke a v t).ram = r.ram := by
  unfold Riot.poke Riot.portWrite Riot.timerWrite Riot.edgeWrite
  repeat' split
  all_goals rfl

/-- A system update that keeps every byte and every steady field, adds no cycles and leaves the cartridge, the audio state
and RIOT RAM alone: what a RIOT or TIA peek does. -/
structure System.Quiet (y z : System) : Prop where
  bytes : ∀ l, z.byteAt l = y.byteAt l
  steady : y.Steady z
  cycles : z.cycles = y.cycles
  cart : z.cart = y.cart
  audio : z.audio = y.audio
  ram : z.riot.ram = y.riot.ram

theorem System.Quiet.refl (y : System) : y.Quiet y := ⟨fun _ => rfl, .refl y, rfl, rfl, rfl, rfl⟩

theorem System.Quiet.trans {y z w : System} (h : y.Quiet z) (k : z.Quiet w) : y.Quiet w :=
  ⟨fun l => (k.1 l).trans (h.1 l), h.2.trans k.2, k.3.trans h.3, k.4.trans h.4, k.5.trans h.5, k.6.trans h.6⟩

theorem System.Quiet.setDraws (k : Nat) (y : System) : y.Quiet (y.setDraws k) :=
  ⟨fun _ => rfl, .setDraws k y, rfl, rfl, rfl, rfl⟩

theorem System.Quiet.setDataBus (v : Byte) (y : System) : y.Quiet (y.setDataBus v) :=
  ⟨fun _ => rfl, .setDataBus v y, rfl, rfl, rfl, rfl⟩

theorem System.Quiet.setRiot {r : Riot} {y : System} (h : r.ram = y.riot.ram) : y.Quiet (y.setRiot r) :=
  ⟨System.byteAt_setRiot h, .setRiot r y, rfl, rfl, rfl, h⟩

theorem System.drawByte_quiet (y : System) : y.Quiet y.drawByte.2 := .setDraws _ y

theorem System.tiaPeek_quiet (y : System) : y.Quiet y.tiaPeek.2 := .setDraws _ y

theorem System.pa7Draw_quiet (y : System) : y.Quiet y.pa7Draw :=
  System.Quiet.trans (z := y.drawBit.2) (.setDraws _ y) (.setRiot rfl)

theorem System.riotPeek_quiet (a : BusAddr) (y : System) : y.Quiet (y.riotPeek a).2 := by
  refine y.pa7Draw_quiet.trans ?_
  unfold System.riotPeek
  simp only
  generalize y.pa7Draw = z
  split
  · unfold System.portRead
    repeat' split
    all_goals first | exact .refl z | exact .setDraws _ z
  · split
    · unfold System.intimRead
      refine System.Quiet.trans (z := z.setRiot { z.riot with timerIrqEn := a.getLsbD 3 }) (.setRiot rfl) ?_
      generalize z.setRiot { z.riot with timerIrqEn := a.getLsbD 3 } = w
      split
      · simp only
        have q : w.Quiet (w.setRiot { w.riot with timerFlagCleared := true }) := .setRiot rfl
        split
        · exact q
        · exact q.trans (.setDraws _ _)
      · exact .refl w
    · unfold System.timintRead
      exact System.Quiet.trans (z := z.drawByte.2) (.setDraws _ z) (.setRiot rfl)

theorem System.riotPoke_quiet (a : BusAddr) (v : Byte) (y : System) : y.Quiet (y.riotPoke a v) :=
  y.pa7Draw_quiet.trans (.setRiot (Riot.poke_ram a v _ _))

/-- What a TIA poke can do: nothing to bytes, cartridge or RIOT. -/
structure System.TiaEffect (y z : System) : Prop where
  bytes : ∀ l, z.byteAt l = y.byteAt l
  steady : y.Steady z
  cycles : y.cfg.tiaVideo = .quiet → z.cycles = y.cycles
  cart : z.cart = y.cart
  ram : z.riot = y.riot
  audio : z.audio = y.audio ∨ ∃ r v t, isSoundReg r = true ∧ z.audio = y.audio.set y.cfg r v t

theorem System.tiaPoke_effect (a : BusAddr) (v : Byte) (y : System) : y.TiaEffect (y.tiaPoke a v) := by
  unfold System.tiaPoke
  simp only
  split
  · rename_i hr
    exact ⟨fun _ => rfl, .setAudioSet _ _ _ y, fun _ => rfl, rfl, rfl, .inr ⟨_, _, _, hr, rfl⟩⟩
  · unfold System.videoPoke
    split
    · exact ⟨fun _ => rfl, .refl y, fun _ => rfl, rfl, rfl, .inl rfl⟩
    · rename_i hf
      exact ⟨fun _ => rfl, ((System.Steady.setCycles _ y).trans (.setStop _ _)).trans (.setDraws _ _),
        fun hq => (by rw [hf] at hq; cases hq), rfl, rfl, .inl rfl⟩

/-! ## The invariant -/

theorem System.inv_iff (y : System) : y.inv = true ↔
    Config.wf y.cfg = true ∧ ResetDraws.wf y.cart.variant y.cfg.resets = true ∧ y.devices = attachOrder
      ∧ Memory.wf 128 y.riot.ram = true ∧ y.cart.wf = true ∧ y.audio.wf = true := by
  simp [System.inv, Bool.and_eq_true, and_assoc]

theorem System.inv_of_same {y z : System} (h : y.inv = true) (hc : z.cfg = y.cfg) (hd : z.devices = y.devices)
    (hr : Memory.wf 128 z.riot.ram = true) (hv : z.cart.variant = y.cart.variant) (hk : z.cart.wf = true)
    (ha : z.audio.wf = true) : z.inv = true := by
  rw [System.inv_iff] at h ⊢
  rw [hc, hd, hv]
  exact ⟨h.1, h.2.1, h.2.2.1, hr, hk, ha⟩

theorem System.inv_setCycles {y : System} (c : U32) : (y.setCycles c).inv = y.inv := rfl
theorem System.inv_tick {y : System} : y.tick.inv = y.inv := rfl
theorem System.inv_setStatus {y : System} (e : ExecStatus) : (y.setStatus e).inv = y.inv := rfl
theorem System.inv_setDataBus {y : System} (v : Byte) : (y.setDataBus v).inv = y.inv := rfl
theorem System.inv_setDraws {y : System} (k : Nat) : (y.setDraws k).inv = y.inv := rfl

theorem System.Quiet.inv {y z : System} (q : y.Quiet z) (h : y.inv = true) : z.inv = true := by
  have h' := (System.inv_iff y).1 h
  exact System.inv_of_same h q.steady.cfg q.steady.devices (by rw [q.ram]; exact h'.2.2.2.1) (by rw [q.cart])
    (by rw [q.cart]; exact h'.2.2.2.2.1) (by rw [q.audio]; exact h'.2.2.2.2.2)

theorem System.inv_setCart {y : System} {c : Cart} (h : y.inv = true) (s : y.cart.SameStores c) (k : c.banksWf = true) :
    (y.setCart c).inv = true := by
  have h' := (System.inv_iff y).1 h
  exact System.inv_of_same h rfl rfl h'.2.2.2.1 s.variant (Cart.wf_of_sameStores h'.2.2.2.2.1 s k) h'.2.2.2.2.2

theorem System.TiaEffect.inv {y z : System} (q : y.TiaEffect z) (h : y.inv = true) : z.inv = true := by
  have h' := (System.inv_iff y).1 h
  refine System.inv_of_same h q.steady.cfg q.steady.devices (by rw [q.ram]; exact h'.2.2.2.1) (by rw [q.cart])
    (by rw [q.cart]; exact h'.2.2.2.2.1) ?_
  rcases q.audio with ha | ⟨r, v, t, hr, ha⟩
  · rw [ha]; exact h'.2.2.2.2.2
  · rw [ha]; exact Audio.wf_set h'.2.2.2.2.2 hr

theorem System.inv_storeRam {y : System} (h : y.inv = true) {l : Loc} (hl : l.store = .riotRam ∧ l.index < 128 ∨
    l.store = .cartRam ∧ l.index < y.cart.variant.ramSize) (v : Byte) : (y.storeAt l v).inv = true := by
  have h' := (System.inv_iff y).1 h
  obtain ⟨s, i⟩ := l
  rcases hl with ⟨rfl, hi⟩ | ⟨rfl, hi⟩
  · exact System.inv_of_same h rfl rfl (Memory.wf_write h'.2.2.2.1 hi v) rfl h'.2.2.2.2.1 h'.2.2.2.2.2
  · have hk := (Cart.wf_iff y.cart).1 h'.2.2.2.2.1
    exact System.inv_of_same h rfl rfl h'.2.2.2.1 rfl
      ((Cart.wf_iff _).2 ⟨hk.1, hk.2.1, Memory.wf_write hk.2.2 hi v⟩) h'.2.2.2.2.2

/-! ## The cartridge -/

theorem System.cartPeek_window {a : BusAddr} (h : a.getLsbD 12 = true) (y : System) :
    (y.cartPeek a).2 =
      match y.writePortAt a with
      | some l => ((y.setCart (y.cart.hotspot (windowOffset a))).drawByte.2.drawByte.2).storeAt l
          (y.setCart (y.cart.hotspot (windowOffset a))).drawByte.2.drawByte.1
      | none => y.setCart (y.cart.hotspot (windowOffset a)) := by
  unfold System.cartPeek System.writePortAt
  rw [if_pos h]
  simp only [System.setCart_cart]
  cases (y.cart.hotspot (windowOffset a)).cell (windowOffset a) <;> rfl

theorem System.cartPoke_window {a : BusAddr} (h : a.getLsbD 12 = true) (v : Byte) (y : System) :
    y.cartPoke a v =
      match y.writePortAt a with
      | some l => (y.setCart (y.cart.hotspot (windowOffset a))).storeAt l v
      | none => y.setCart (y.cart.hotspot (windowOffset a)) := by
  unfold System.cartPoke System.writePortAt
  rw [if_pos h]
  simp only [System.setCart_cart]
  cases (y.cart.hotspot (windowOffset a)).cell (windowOffset a) <;> rfl

/-- A write port names on-cart RAM, inside it when the bank state is legal. -/
theorem System.writePortAt_some {y : System} {a : BusAddr} {l : Loc} (h : y.writePortAt a = some l) :
    l.store = .cartRam ∧ (y.cart.banksWf = true → l.index < y.cart.variant.ramSize) := by
  unfold System.writePortAt at h
  split at h
  · rename_i k hk
    cases h
    refine ⟨rfl, fun hw => ?_⟩
    have := Cart.cell_ok (Cart.hotspot_banksWf (windowOffset a) hw) (windowOffset_lt a)
    rw [hk] at this
    simpa [Cart.cellOk, (Cart.hotspot_sameStores _ _).variant] using this
  · cases h
  · cases h

/-! ## Peek -/

/-- What one peek can do. -/
structure System.PeekEffect (addr : Word) (y z : System) : Prop where
  bytes : System.BytesKept (y.peekTarget addr).toList y z
  steady : y.Steady z
  cycles : z.cycles = y.cycles
  audio : z.audio = y.audio
  inv : y.inv = true → z.inv = true

theorem System.latch_quiet (v : Byte) (y : System) : y.Quiet (y.latch v) := by
  unfold System.latch
  split
  · exact .refl y
  · exact .setDataBus v y

/-- What the FE observer can do. -/
theorem System.feObserve_effect (a : BusAddr) (d : Byte) (y : System) :
    (∀ l, (y.feObserve a d).byteAt l = y.byteAt l) ∧ y.Steady (y.feObserve a d) ∧ (y.feObserve a d).cycles = y.cycles
      ∧ (y.feObserve a d).audio = y.audio ∧ (y.inv = true → (y.feObserve a d).inv = true) := by
  unfold System.feObserve
  split
  · rename_i h
    have s := Cart.feAccess_sameStores a d y.cart
    exact ⟨System.byteAt_setCart s, .setCart s (fun hl => Cart.feAccess_locked a d hl), rfl, rfl, fun hi => System.inv_setCart hi s
      (Cart.feAccess_banksWf a d h.1 (Cart.banksWf_of_wf ((System.inv_iff y).1 hi).2.2.2.2.1))⟩
  · exact ⟨fun _ => rfl, .refl y, rfl, rfl, id⟩

theorem System.cartPeek_trapped {a : BusAddr} (h : a.getLsbD 12 = false) (y : System) :
    (∀ l, (y.cartPeek a).2.byteAt l = y.byteAt l) ∧ y.Steady (y.cartPeek a).2 ∧ (y.cartPeek a).2.cycles = y.cycles
      ∧ (y.cartPeek a).2.audio = y.audio ∧ (y.inv = true → (y.cartPeek a).2.inv = true) := by
  unfold System.cartPeek
  rw [if_neg (by rw [h]; decide)]
  split
  · have s := Cart.uaHotspot_sameStores a y.cart
    have q := System.tiaPeek_quiet (y.setCart (y.cart.uaHotspot a))
    refine ⟨fun l => (q.bytes l).trans (System.byteAt_setCart s l), (System.Steady.setCart s (fun hl => .of_eq (Cart.uaHotspot_locked _ hl))).trans q.steady, q.cycles, q.audio,
      fun hi => q.inv (System.inv_setCart hi s (Cart.uaHotspot_banksWf a (Cart.banksWf_of_wf ((System.inv_iff y).1 hi).2.2.2.2.1)))⟩
  · have q := System.tiaPeek_quiet y
    exact ⟨q.bytes, q.steady, q.cycles, q.audio, q.inv⟩

theorem System.Quiet.asPeek {addr : Word} {y z : System} (q : y.Quiet z) : System.PeekEffect addr y z :=
  ⟨.of_eq q.bytes, q.steady, q.cycles, q.audio, q.inv⟩

theorem System.fetchByte_effect (addr : Word) (y : System) : System.PeekEffect addr y (y.fetchByte (busAddr addr)).2 := by
  unfold System.fetchByte
  cases hd : (y.pageAccess (busAddr addr)).directPeek with
  | some l => exact (System.Quiet.refl y).asPeek
  | none =>
    simp only
    cases hv : (y.pageAccess (busAddr addr)).device with
    | riot => exact (System.riotPeek_quiet _ y).asPeek
    | tia => exact (System.tiaPeek_quiet y).asPeek
    | null => exact (System.Quiet.refl y).asPeek
    | cart =>
      simp only [System.devicePeek]
      by_cases h12 : (busAddr addr).getLsbD 12 = true
      · have ht : y.peekTarget addr = y.writePortAt (busAddr addr) := by
          simp [System.peekTarget, hd, hv, h12]
        have s := Cart.hotspot_sameStores (windowOffset (busAddr addr)) y.cart
        have hi1 : y.inv = true → (y.setCart (y.cart.hotspot (windowOffset (busAddr addr)))).inv = true := fun hi =>
          System.inv_setCart hi s (Cart.hotspot_banksWf _ (Cart.banksWf_of_wf ((System.inv_iff y).1 hi).2.2.2.2.1))
        rw [System.cartPeek_window h12]
        cases hw : y.writePortAt (busAddr addr) with
        | none => exact ⟨.of_eq (System.byteAt_setCart s), .setCart s (fun hl => .of_eq (Cart.hotspot_locked _ hl)), rfl, rfl, hi1⟩
        | some l =>
          obtain ⟨hl, hr⟩ := System.writePortAt_some hw
          simp only
          generalize hz : (y.setCart (y.cart.hotspot (windowOffset (busAddr addr)))).drawByte.2.drawByte.2 = z
          have hq : (y.setCart (y.cart.hotspot (windowOffset (busAddr addr)))).Quiet z := by
            rw [← hz]; exact System.Quiet.trans (System.drawByte_quiet _) (System.drawByte_quiet _)
          have hne : l.store ≠ .cartRom := by rw [hl]; decide
          refine ⟨fun k hk => ?_, ((System.Steady.setCart s (fun hl => .of_eq (Cart.hotspot_locked _ hl))).trans hq.steady).trans (.storeAt hne _ z), ?_, ?_, fun hi => ?_⟩
          · rw [ht, hw] at hk
            rw [System.byteAt_storeAt_other (by simpa using hk), hq.bytes, System.byteAt_setCart s]
          · obtain ⟨st, i⟩ := l
            cases hl
            exact hq.cycles
          · obtain ⟨st, i⟩ := l
            cases hl
            exact hq.audio
          · refine System.inv_storeRam (hq.inv (hi1 hi)) (.inr ⟨hl, ?_⟩) _
            have := hr (Cart.banksWf_of_wf ((System.inv_iff y).1 hi).2.2.2.2.1)
            rwa [hq.cart, System.setCart_cart, s.variant]
      · obtain ⟨h1, h2, h3, h4, h5⟩ := System.cartPeek_trapped (by simpa using h12) y
        exact ⟨.of_eq h1, h2, h3, h4, h5⟩

/-- A peek: bytes but a write port's, steady fields, cycles, audio and the invariant are kept. -/
theorem System.peek_effect (addr : Word) (y : System) : System.PeekEffect addr y (y.peek addr).2 := by
  have h := System.fetchByte_effect addr y
  have q := System.latch_quiet (y.fetchByte (busAddr addr)).1 (y.fetchByte (busAddr addr)).2
  obtain ⟨f1, f2, f3, f4, f5⟩ := System.feObserve_effect (busAddr addr) (y.fetchByte (busAddr addr)).1
    ((y.fetchByte (busAddr addr)).2.latch (y.fetchByte (busAddr addr)).1)
  exact ⟨fun l hl => (f1 l).trans ((q.bytes l).trans (h.bytes l hl)), (h.steady.trans q.steady).trans f2,
    f3.trans (q.cycles.trans h.cycles), f4.trans (q.audio.trans h.audio), fun hi => f5 (q.inv (h.inv hi))⟩

/-! ## Poke -/

/-- What one poke can do. -/
structure System.PokeEffect (addr : Word) (y z : System) : Prop where
  bytes : System.BytesKept (y.pokeTarget addr).toList y z
  steady : y.Steady z
  cycles : y.cfg.tiaVideo = .quiet → z.cycles = y.cycles
  inv : y.inv = true → z.inv = true

theorem System.TiaEffect.asPoke {addr : Word} {y z : System} (q : y.TiaEffect z) : System.PokeEffect addr y z :=
  ⟨.of_eq q.bytes, q.steady, q.cycles, q.inv⟩

theorem System.putByte_effect (addr : Word) (v : Byte) (y : System) :
    System.PokeEffect addr y (y.putByte (busAddr addr) v) := by
  unfold System.putByte
  cases hd : (y.pageAccess (busAddr addr)).directPoke with
  | some l =>
    have ht : y.pokeTarget addr = some { l with index := l.index + pageOffset (busAddr addr) } := by
      simp [System.pokeTarget, hd]
    have hl := System.directPoke_cases hd
    have hne : ({ l with index := l.index + pageOffset (busAddr addr) } : Loc).store ≠ .cartRom := by
      rcases hl with ⟨rfl, -⟩ | ⟨-, k, -, rfl⟩ <;> simp
    refine ⟨fun k hk => ?_, .storeAt hne v y, fun _ => ?_, fun hi => ?_⟩
    · rw [ht] at hk
      exact System.byteAt_storeAt_other (by simpa using hk) v y
    · rcases hl with ⟨rfl, -⟩ | ⟨-, k, -, rfl⟩ <;> rfl
    · rcases hl with ⟨rfl, -⟩ | ⟨-, k, hk, rfl⟩
      · refine System.inv_storeRam hi (.inl ⟨rfl, ?_⟩) v
        have := ramIndex_toNat (busAddr addr)
        have h2 : (busAddr addr &&& 0x7F).toNat < 128 := by
          rw [BitVec.toNat_and]
          exact Nat.lt_of_le_of_lt Nat.and_le_right (by decide)
        show (pageStart (busAddr addr) &&& 0x7F).toNat + pageOffset (busAddr addr) < 128
        omega
      · refine System.inv_storeRam hi (.inr ⟨rfl, ?_⟩) v
        have hw := Cart.banksWf_of_wf ((System.inv_iff y).1 hi).2.2.2.2.1
        have := Cart.cell_ok hw (windowOffset_lt (busAddr addr))
        rw [windowOffset_pageStart, Cart.cell_page y.cart (windowOffset_pageStart_mod _) (pageOffset_lt _), hk] at this
        exact this
  | none =>
    simp only
    cases hv : (y.pageAccess (busAddr addr)).device with
    | riot =>
      have q := System.riotPoke_quiet (busAddr addr) v y
      exact ⟨.of_eq q.bytes, q.steady, fun _ => q.cycles, q.inv⟩
    | tia => exact (System.tiaPoke_effect _ v y).asPoke
    | null => exact ⟨.of_eq fun _ => rfl, .refl y, fun _ => rfl, id⟩
    | cart =>
      simp only [System.devicePoke]
      by_cases h12 : (busAddr addr).getLsbD 12 = true
      · have ht : y.pokeTarget addr = y.writePortAt (busAddr addr) := by
          simp [System.pokeTarget, hd, hv, h12]
        have s := Cart.hotspot_sameStores (windowOffset (busAddr addr)) y.cart
        have hi1 : y.inv = true → (y.setCart (y.cart.hotspot (windowOffset (busAddr addr)))).inv = true := fun hi =>
          System.inv_setCart hi s (Cart.hotspot_banksWf _ (Cart.banksWf_of_wf ((System.inv_iff y).1 hi).2.2.2.2.1))
        rw [System.cartPoke_window h12]
        cases hw : y.writePortAt (busAddr addr) with
        | none => exact ⟨.of_eq (System.byteAt_setCart s), .setCart s (fun hl => .of_eq (Cart.hotspot_locked _ hl)), fun _ => rfl, hi1⟩
        | some l =>
          obtain ⟨hl, hr⟩ := System.writePortAt_some hw
          have hne : l.store ≠ .cartRom := by rw [hl]; decide
          refine ⟨fun k hk => ?_, (System.Steady.setCart s (fun hl => .of_eq (Cart.hotspot_locked _ hl))).trans (.storeAt hne _ _), fun _ => ?_, fun hi => ?_⟩
          · rw [ht, hw] at hk
            rw [System.byteAt_storeAt_other (by simpa using hk), System.byteAt_setCart s]
          · obtain ⟨st, i⟩ := l
            cases hl
            rfl
          · refine System.inv_storeRam (hi1 hi) (.inr ⟨hl, ?_⟩) _
            have := hr (Cart.banksWf_of_wf ((System.inv_iff y).1 hi).2.2.2.2.1)
            rwa [System.setCart_cart, s.variant]
      · unfold System.cartPoke
        rw [if_neg h12]
        split
        · have s := Cart.uaHotspot_sameStores (busAddr addr) y.cart
          have q := System.tiaPoke_effect (busAddr addr) v (y.setCart (y.cart.uaHotspot (busAddr addr)))
          exact ⟨.of_eq fun l => (q.bytes l).trans (System.byteAt_setCart s l), (System.Steady.setCart s (fun hl => .of_eq (Cart.uaHotspot_locked _ hl))).trans q.steady,
            q.cycles, fun hi => q.inv (System.inv_setCart hi s (Cart.uaHotspot_banksWf _
              (Cart.banksWf_of_wf ((System.inv_iff y).1 hi).2.2.2.2.1)))⟩
        · have s := Cart.trapPoke_sameStores (busAddr addr) v y.cart
          have q := System.tiaPoke_effect (busAddr addr) v (y.setCart (y.cart.trapPoke (busAddr addr) v))
          exact ⟨.of_eq fun l => (q.bytes l).trans (System.byteAt_setCart s l), (System.Steady.setCart s (fun hl => .of_eq (Cart.trapPoke_locked _ _ hl))).trans q.steady,
            q.cycles, fun hi => q.inv (System.inv_setCart hi s (Cart.trapPoke_banksWf _ _
              (Cart.banksWf_of_wf ((System.inv_iff y).1 hi).2.2.2.2.1)))⟩

/-- A poke: bytes but its target, steady fields and the invariant are kept; a quiet video collaborator adds no cycles. -/
theorem System.poke_effect (addr : Word) (v : Byte) (y : System) : System.PokeEffect addr y (y.poke addr v) := by
  have h := System.putByte_effect addr v y
  have q := System.Quiet.setDataBus v (y.putByte (busAddr addr) v)
  obtain ⟨f1, f2, f3, -, f5⟩ := System.feObserve_effect (busAddr addr) v ((y.putByte (busAddr addr) v).setDataBus v)
  exact ⟨fun l hl => (f1 l).trans ((q.bytes l).trans (h.bytes l hl)), (h.steady.trans q.steady).trans f2,
    fun hq => f3.trans (q.cycles.trans (h.cycles hq)), fun hi => f5 (q.inv (h.inv hi))⟩

end Sys2Proof.Machine
end

