-- ==== Sys2Proof/Laws/Ops.lean ====
section
/-! SUPPORT. What each named operation of the CPU and each shared effect of the instructions can do: the registers it keeps,
the bytes it keeps, its processor cycles, the invariant. -/

namespace Sys2Proof.Machine

/-! ## Runs of accesses -/

/-- From `y` to `z` in `n` processor cycles: every byte but those of `ls`, the steady fields and the invariant are kept. -/
structure System.Run (n : Nat) (ls : List Loc) (y z : System) : Prop where
  bytes : System.BytesKept ls y z
  steady : y.Steady z
  cycles : y.cfg.tiaVideo = .quiet → z.cycles = y.cycles + BitVec.ofNat 32 (n * y.cfg.spc)
  inv : y.inv = true → z.inv = true

theorem System.Run.refl (y : System) : System.Run 0 [] y y :=
  ⟨.refl _ y, .refl y, fun _ => by simp, id⟩

theorem System.Run.trans {n m : Nat} {ls ls' : List Loc} {y z w : System} (h : System.Run n ls y z)
    (k : System.Run m ls' z w) : System.Run (n + m) (ls ++ ls') y w where
  bytes := h.bytes.trans k.bytes
  steady := h.steady.trans k.steady
  cycles hq := by
    rw [k.cycles (by rw [h.steady.cfg]; exact hq), h.cycles hq, h.steady.cfg, Nat.add_mul, BitVec.ofNat_add,
      BitVec.add_assoc]
  inv hi := k.inv (h.inv hi)

/-- Composition with the sums and lists as the goal has them. -/
theorem System.Run.trans' {n m p : Nat} {ls ls' ls'' : List Loc} {y z w : System} (h : System.Run n ls y z)
    (k : System.Run m ls' z w) (hn : n + m = p := by rfl) (hl : ls ++ ls' = ls'' := by simp) :
    System.Run p ls'' y w := by
  subst hn hl
  exact h.trans k

theorem System.Run.tick (y : System) : System.Run 1 [] y y.tick :=
  ⟨.of_eq fun _ => rfl, .tick y, fun _ => by simp, fun h => h⟩

theorem System.Run.setDraws (k : Nat) (y : System) : System.Run 0 [] y (y.setDraws k) :=
  ⟨.of_eq fun _ => rfl, .setDraws k y, fun _ => by simp, fun h => h⟩

theorem System.Run.peek (addr : Word) (y : System) : System.Run 0 (y.peekTarget addr).toList y (y.peek addr).2 :=
  have h := System.peek_effect addr y
  ⟨h.bytes, h.steady, fun _ => by simp [h.cycles], h.inv⟩

theorem System.Run.poke (addr : Word) (v : Byte) (y : System) :
    System.Run 0 (y.pokeTarget addr).toList y (y.poke addr v) :=
  have h := System.poke_effect addr v y
  ⟨h.bytes, h.steady, fun hq => by simp [h.cycles hq], h.inv⟩

/-! ## Addresses outside the window -/

theorem busAddr_zeroPage (z : Byte) : (busAddr (zeroPage z)).getLsbD 12 = false := by
  unfold busAddr zeroPage wordOf
  rw [BitVec.getLsbD_setWidth, BitVec.getLsbD_append]
  simp

theorem busAddr_stackAddr (p : Byte) : (busAddr (stackAddr p)).getLsbD 12 = false := by
  unfold busAddr stackAddr wordOf
  rw [BitVec.getLsbD_setWidth, BitVec.getLsbD_append]
  simp

/-- A read outside the window disturbs no byte. -/
theorem System.peekTarget_low {addr : Word} (h : (busAddr addr).getLsbD 12 = false) (y : System) :
    y.peekTarget addr = none := by
  unfold System.peekTarget
  simp only [h]
  split <;> simp

/-- Outside the window the page table does not depend on the bank state. -/
theorem System.pageAccess_low {y z : System} (hd : z.devices = y.devices) (hv : z.cart.variant = y.cart.variant)
    {a : BusAddr} (h : a.getLsbD 12 = false) : z.pageAccess a = y.pageAccess a := by
  unfold System.pageAccess
  rw [hd]
  have : ∀ d, z.installed (pageStart a) d = y.installed (pageStart a) d := by
    intro d; cases d <;> simp only [System.installed, Cart.page, pageStart_bit12, h, hv, Bool.false_eq_true, if_false]
  simp only [this]

theorem System.pokeTarget_low {y z : System} (s : y.Steady z) {addr : Word} (h : (busAddr addr).getLsbD 12 = false) :
    z.pokeTarget addr = y.pokeTarget addr := by
  simp only [System.pokeTarget, System.pageAccess_low s.devices s.variant h, h, Bool.false_eq_true, if_false]

/-- The last quarter of the window is ROM in every variant and bank. -/
theorem Cart.cell_high (c : Cart) {o : Nat} (h : 0xA00 ≤ o) : ∃ k, c.cell o = .rom k := by
  unfold Cart.cell
  cases c.variant <;>
    simp only [Cart.cell4K, Cart.cellSC, Cart.cell3F, Cart.cell3E, Cart.cellE7, Cart.cellCV, Cart.slotBank] <;>
    (repeat' split) <;>
    first
    | exact ⟨_, rfl⟩
    | (exfalso; omega)

/-- A read of a vector disturbs no byte. -/
theorem System.peekTarget_high {addr : Word} (h : 0xA00 ≤ windowOffset (busAddr addr)) (y : System) :
    y.peekTarget addr = none := by
  unfold System.peekTarget
  simp only
  split
  · rfl
  · split
    · unfold System.writePortAt
      obtain ⟨k, hk⟩ := Cart.cell_high (y.cart.hotspot (windowOffset (busAddr addr))) h
      rw [hk]
    · rfl
  · rfl

/-! ## Accesses -/

@[simp] theorem State.read_a (p : Word) (s : State) : (s.read p).2.a = s.a := rfl
@[simp] theorem State.read_x (p : Word) (s : State) : (s.read p).2.x = s.x := rfl
@[simp] theorem State.read_y (p : Word) (s : State) : (s.read p).2.y = s.y := rfl
@[simp] theorem State.read_sp (p : Word) (s : State) : (s.read p).2.sp = s.sp := rfl
@[simp] theorem State.read_pc (p : Word) (s : State) : (s.read p).2.pc = s.pc := rfl
@[simp] theorem State.read_ir (p : Word) (s : State) : (s.read p).2.ir = s.ir := rfl
@[simp] theorem State.read_flags (p : Word) (s : State) : (s.read p).2.flags = s.flags := rfl
@[simp] theorem State.read_count (p : Word) (s : State) : (s.read p).2.instructionCount = s.instructionCount := rfl
@[simp] theorem State.read_last (p : Word) (s : State) : (s.read p).2.lastAccessWasRead = true := rfl

@[simp] theorem State.write_a (p : Word) (v : Byte) (s : State) : (s.write p v).a = s.a := rfl
@[simp] theorem State.write_x (p : Word) (v : Byte) (s : State) : (s.write p v).x = s.x := rfl
@[simp] theorem State.write_y (p : Word) (v : Byte) (s : State) : (s.write p v).y = s.y := rfl
@[simp] theorem State.write_sp (p : Word) (v : Byte) (s : State) : (s.write p v).sp = s.sp := rfl
@[simp] theorem State.write_pc (p : Word) (v : Byte) (s : State) : (s.write p v).pc = s.pc := rfl
@[simp] theorem State.write_ir (p : Word) (v : Byte) (s : State) : (s.write p v).ir = s.ir := rfl
@[simp] theorem State.write_flags (p : Word) (v : Byte) (s : State) : (s.write p v).flags = s.flags := rfl
@[simp] theorem State.write_count (p : Word) (v : Byte) (s : State) :
    (s.write p v).instructionCount = s.instructionCount := rfl
@[simp] theorem State.write_last (p : Word) (v : Byte) (s : State) : (s.write p v).lastAccessWasRead = false := rfl

theorem State.idle_run (s : State) : System.Run 1 [] s.sys s.idle.sys := .tick s.sys

theorem State.read_run (p : Word) (s : State) : System.Run 1 (s.readPlaces p) s.sys (s.read p).2.sys :=
  (State.idle_run s).trans' (.peek p _) rfl (by simp [State.readPlaces])

theorem State.write_run (p : Word) (v : Byte) (s : State) : System.Run 1 (s.writePlaces p) s.sys (s.write p v).sys :=
  (State.idle_run s).trans' (.poke p v _) rfl (by simp [State.writePlaces])

/-- A read outside the window. -/
theorem State.readLow_run {p : Word} (h : (busAddr p).getLsbD 12 = false) (s : State) :
    System.Run 1 [] s.sys (s.read p).2.sys := by
  have := s.read_run p
  rwa [State.readPlaces, System.peekTarget_low h] at this

/-- A read of the window's last quarter. -/
theorem State.readHigh_run {p : Word} (h : 0xA00 ≤ windowOffset (busAddr p)) (s : State) :
    System.Run 1 [] s.sys (s.read p).2.sys := by
  have := s.read_run p
  rwa [State.readPlaces, System.peekTarget_high h] at this

/-! ## Registers of the stack operations -/

@[simp] theorem State.push_a (v : Byte) (s : State) : (s.push v).a = s.a := rfl
@[simp] theorem State.push_x (v : Byte) (s : State) : (s.push v).x = s.x := rfl
@[simp] theorem State.push_y (v : Byte) (s : State) : (s.push v).y = s.y := rfl
@[simp] theorem State.push_sp (v : Byte) (s : State) : (s.push v).sp = s.sp - 1 := rfl
@[simp] theorem State.push_pc (v : Byte) (s : State) : (s.push v).pc = s.pc := rfl
@[simp] theorem State.push_ir (v : Byte) (s : State) : (s.push v).ir = s.ir := rfl
@[simp] theorem State.push_flags (v : Byte) (s : State) : (s.push v).flags = s.flags := rfl
@[simp] theorem State.push_count (v : Byte) (s : State) : (s.push v).instructionCount = s.instructionCount := rfl

@[simp] theorem State.pull_a (s : State) : s.pull.2.a = s.a := rfl
@[simp] theorem State.pull_x (s : State) : s.pull.2.x = s.x := rfl
@[simp] theorem State.pull_y (s : State) : s.pull.2.y = s.y := rfl
@[simp] theorem State.pull_sp (s : State) : s.pull.2.sp = s.sp + 1 := rfl
@[simp] theorem State.pull_pc (s : State) : s.pull.2.pc = s.pc := rfl
@[simp] theorem State.pull_ir (s : State) : s.pull.2.ir = s.ir := rfl
@[simp] theorem State.pull_flags (s : State) : s.pull.2.flags = s.flags := rfl
@[simp] theorem State.pull_count (s : State) : s.pull.2.instructionCount = s.instructionCount := rfl

@[simp] theorem State.pushWord_a (w : Word) (s : State) : (s.pushWord w).a = s.a := by
  simp only [State.pushWord, State.push_a]
@[simp] theorem State.pushWord_x (w : Word) (s : State) : (s.pushWord w).x = s.x := by
  simp only [State.pushWord, State.push_x]
@[simp] theorem State.pushWord_y (w : Word) (s : State) : (s.pushWord w).y = s.y := by
  simp only [State.pushWord, State.push_y]
@[simp] theorem State.pushWord_pc (w : Word) (s : State) : (s.pushWord w).pc = s.pc := by
  simp only [State.pushWord, State.push_pc]
@[simp] theorem State.pushWord_ir (w : Word) (s : State) : (s.pushWord w).ir = s.ir := by
  simp only [State.pushWord, State.push_ir]
@[simp] theorem State.pushWord_flags (w : Word) (s : State) : (s.pushWord w).flags = s.flags := by
  simp only [State.pushWord, State.push_flags]
@[simp] theorem State.pushWord_count (w : Word) (s : State) : (s.pushWord w).instructionCount = s.instructionCount := by
  simp only [State.pushWord, State.push_count]

@[simp] theorem State.pullWord_a (s : State) : s.pullWord.2.a = s.a := by
  simp only [State.pullWord, State.pull_a]
@[simp] theorem State.pullWord_x (s : State) : s.pullWord.2.x = s.x := by
  simp only [State.pullWord, State.pull_x]
@[simp] theorem State.pullWord_y (s : State) : s.pullWord.2.y = s.y := by
  simp only [State.pullWord, State.pull_y]
@[simp] theorem State.pullWord_sp (s : State) : s.pullWord.2.sp = s.sp + 1 + 1 := by
  simp only [State.pullWord, State.pull_sp]
@[simp] theorem State.pullWord_pc (s : State) : s.pullWord.2.pc = s.pc := by
  simp only [State.pullWord, State.pull_pc]
@[simp] theorem State.pullWord_ir (s : State) : s.pullWord.2.ir = s.ir := by
  simp only [State.pullWord, State.pull_ir]
@[simp] theorem State.pullWord_flags (s : State) : s.pullWord.2.flags = s.flags := by
  simp only [State.pullWord, State.pull_flags]
@[simp] theorem State.pullWord_count (s : State) : s.pullWord.2.instructionCount = s.instructionCount := by
  simp only [State.pullWord, State.pull_count]

/-! ## Stack and vectors -/

theorem State.push_run (v : Byte) (s : State) : System.Run 1 (s.pushPlaces 1) s.sys (s.push v).sys :=
  (s.write_run (stackAddr s.sp) v).trans' (.refl _) rfl (by simp [State.pushPlaces])

theorem State.pull_run (s : State) : System.Run 1 [] s.sys s.pull.2.sys :=
  State.readLow_run (busAddr_stackAddr _) (s.setSP (s.sp + 1))

/-- The bytes pushes store to depend only on the stack pointer and steady fields. -/
theorem State.pushPlaces_congr {s t : State} (h : s.sys.Steady t.sys) (hsp : t.sp = s.sp) (n : Nat) :
    t.pushPlaces n = s.pushPlaces n := by
  induction n generalizing s t with
  | zero => rfl
  | succ n ih =>
    simp only [State.pushPlaces, State.writePlaces, hsp, System.pokeTarget_low h (busAddr_stackAddr s.sp)]
    rw [ih (s := s.setSP (s.sp - 1)) (t := t.setSP (s.sp - 1)) h rfl]

@[simp] theorem State.pushWord_sp (w : Word) (s : State) : (s.pushWord w).sp = s.sp - 2 := by
  simp only [State.pushWord, State.push_sp]
  rw [BitVec.sub_sub]; rfl

theorem State.pushWord_run (w : Word) (s : State) : System.Run 2 (s.pushPlaces 2) s.sys (s.pushWord w).sys := by
  have h := s.push_run (hiByte w)
  refine h.trans' ((s.push (hiByte w)).push_run (loByte w)) rfl ?_
  rw [State.pushPlaces_congr (s := s.setSP (s.sp - 1)) h.steady rfl]
  simp [State.pushPlaces]

theorem State.pullWord_run (s : State) : System.Run 2 [] s.sys s.pullWord.2.sys := s.pull_run.trans' s.pull.2.pull_run

theorem State.read16High_run {p : Word} (h : 0xA00 ≤ windowOffset (busAddr p))
    (h' : 0xA00 ≤ windowOffset (busAddr (p + 1))) (s : State) : System.Run 2 [] s.sys (s.read16 p).2.sys :=
  (State.readHigh_run h s).trans' (State.readHigh_run h' (s.read p).2)

theorem State.pushWith_run (f : Flags) (v : Byte) (s : State) :
    System.Run 1 (s.pushPlaces 1) s.sys ((s.setFlags f).push v).sys := (s.setFlags f).push_run v

/-- The rest of a trap entry once the return address is pushed. -/
theorem State.trapTail_run {vec : Word} (h : 0xA00 ≤ windowOffset (busAddr vec))
    (h' : 0xA00 ≤ windowOffset (busAddr (vec + 1))) {s t : State} (h1 : System.Run 2 (s.pushPlaces 2) s.sys t.sys)
    (hsp : t.sp = s.sp - 2) (f g : Flags) (v : Byte) :
    System.Run 5 (s.pushPlaces 3) s.sys (State.read16 vec (((t.setFlags f).push v).setFlags g)).2.sys := by
  have h2 := t.pushWith_run f v
  rw [State.pushPlaces_congr (s := s.setSP (s.sp - 2)) h1.steady hsp 1] at h2
  generalize (t.setFlags f).push v = u at h2
  refine (h1.trans' h2 rfl rfl).trans' (State.read16High_run h h' (u.setFlags g)) rfl ?_
  have : s.sp - 1#8 - 1#8 = s.sp - 2#8 := by rw [BitVec.sub_sub]; rfl
  simp [State.pushPlaces, this, State.writePlaces]

/-- Taking a trap through a vector in the window's last quarter. -/
theorem State.trap_run {vec : Word} (h : 0xA00 ≤ windowOffset (busAddr vec))
    (h' : 0xA00 ≤ windowOffset (busAddr (vec + 1))) (ret : Word) (b : Bool) (s : State) :
    System.Run 5 (s.pushPlaces 3) s.sys (s.trap ret b vec).sys := by
  have h1 := s.pushWord_run ret
  have hsp := s.pushWord_sp ret
  simp only [State.trap, State.setPC_sys]
  exact State.trapTail_run h h' h1 hsp _ _ _

theorem State.interruptEntry_run {vec : Word} (h : 0xA00 ≤ windowOffset (busAddr vec))
    (h' : 0xA00 ≤ windowOffset (busAddr (vec + 1))) (s : State) :
    System.Run 7 (s.pushPlaces 3) s.sys (s.interruptEntry vec).sys := by
  refine (s.idle_run.trans' s.idle.idle_run rfl rfl).trans' (State.trap_run h h' s.pc false s.idle.idle) rfl ?_
  rw [State.pushPlaces_congr (s := s) (t := s.idle.idle) ((System.Steady.tick _).trans (.tick _)) rfl]
  simp

theorem State.trapReturn_run (s : State) : System.Run 3 [] s.sys s.trapReturn.sys :=
  s.pull_run.trans' ((s.pull.2.setFlags (Flags.ofByte s.pull.1)).pullWord_run)

/-! ## Instruction fetch -/

theorem State.fetch_run (s : State) : System.Run 1 (s.readPlaces s.pc) s.sys s.fetch.2.sys := s.read_run s.pc

/-- The bytes `n` fetches from PC disturb. -/
def State.fetchPlaces : Nat → State → List Loc
  | 0, _ => []
  | n + 1, s => s.readPlaces s.pc ++ State.fetchPlaces n s.fetch.2

theorem State.fetchBytes_run (n : Nat) (s : State) : System.Run n (s.fetchPlaces n) s.sys (State.fetchBytes n s).2.sys := by
  induction n generalizing s with
  | zero => exact .refl _
  | succ n ih => exact s.fetch_run.trans' (ih s.fetch.2) (Nat.add_comm 1 n) rfl

theorem State.fetchBytes_length (n : Nat) (s : State) : (State.fetchBytes n s).1.length = n := by
  induction n generalizing s with
  | zero => rfl
  | succ n ih => simp [State.fetchBytes, ih]

/-- `n` fetches move PC by `n` and touch no other register. -/
theorem State.fetchBytes_state (n : Nat) (s : State) :
    (State.fetchBytes n s).2 =
      { s with
        pc := s.pc + BitVec.ofNat 16 n
        lastAccessWasRead := (State.fetchBytes n s).2.lastAccessWasRead
        sys := (State.fetchBytes n s).2.sys } := by
  induction n generalizing s with
  | zero => simp [State.fetchBytes]
  | succ n ih =>
    have hpc : s.fetch.2.pc + BitVec.ofNat 16 n = s.pc + BitVec.ofNat 16 (n + 1) := by
      show s.pc + 1 + BitVec.ofNat 16 n = _
      rw [BitVec.add_assoc, Nat.add_comm n 1, BitVec.ofNat_add]
      rfl
    conv_lhs => rw [State.fetchBytes]
    simp only
    rw [ih s.fetch.2, hpc]
    rfl

theorem State.fetchInstruction_run (s : State) :
    System.Run (1 + operandBytesOf s.fetchOpcode.1)
      (s.readPlaces s.pc ++ s.fetchOpcode.2.fetchPlaces (operandBytesOf s.fetchOpcode.1)) s.sys s.fetchInstruction.2.sys :=
  s.fetch_run.trans' (State.fetchBytes_run _ s.fetchOpcode.2) rfl rfl

/-- Fetching an instruction moves PC past the bytes fetched, sets IR to the opcode and touches no other register. -/
theorem State.fetchInstruction_state (s : State) :
    s.fetchInstruction.2 =
      { s with
        pc := s.pc + 1 + BitVec.ofNat 16 (operandBytesOf s.fetchOpcode.1)
        ir := s.fetchOpcode.1
        lastAccessWasRead := s.fetchInstruction.2.lastAccessWasRead
        sys := s.fetchInstruction.2.sys } := by
  show (State.fetchBytes _ s.fetchOpcode.2).2 = _
  rw [State.fetchBytes_state]
  rfl

/-! ## Operands -/

/-- The registers an operand access keeps: all of them. -/
structure State.SameRegisters (s t : State) : Prop where
  a : t.a = s.a
  x : t.x = s.x
  y : t.y = s.y
  sp : t.sp = s.sp
  pc : t.pc = s.pc
  ir : t.ir = s.ir
  flags : t.flags = s.flags
  count : t.instructionCount = s.instructionCount

theorem State.SameRegisters.refl (s : State) : s.SameRegisters s := ⟨rfl, rfl, rfl, rfl, rfl, rfl, rfl, rfl⟩

theorem State.SameRegisters.trans {s t u : State} (h : s.SameRegisters t) (k : t.SameRegisters u) : s.SameRegisters u :=
  ⟨k.1.trans h.1, k.2.trans h.2, k.3.trans h.3, k.4.trans h.4, k.5.trans h.5, k.6.trans h.6, k.7.trans h.7, k.8.trans h.8⟩

/-- A state with the same registers is the old one with another system and access bit. -/
theorem State.SameRegisters.eq {s t : State} (h : s.SameRegisters t) :
    t = { s with lastAccessWasRead := t.lastAccessWasRead, sys := t.sys } := by
  obtain ⟨h1, h2, h3, h4, h5, h6, h7, h8⟩ := h
  cases t
  simp only at h1 h2 h3 h4 h5 h6 h7 h8
  subst h1 h2 h3 h4 h5 h6 h7 h8
  rfl

theorem State.idle_state (s : State) : s.SameRegisters s.idle := ⟨rfl, rfl, rfl, rfl, rfl, rfl, rfl, rfl⟩

theorem State.read_state (p : Word) (s : State) : s.SameRegisters (s.read p).2 := ⟨rfl, rfl, rfl, rfl, rfl, rfl, rfl, rfl⟩

theorem State.write_state (p : Word) (v : Byte) (s : State) : s.SameRegisters (s.write p v) :=
  ⟨rfl, rfl, rfl, rfl, rfl, rfl, rfl, rfl⟩

theorem State.zeroPagePointer_state (z : Byte) (s : State) : s.SameRegisters (s.zeroPagePointer z).2 :=
  (s.read_state _).trans (State.read_state _ _)

theorem State.indexed_state (c : AccessClass) (base : Word) (index : Byte) (s : State) :
    s.SameRegisters (s.indexed c base index).2 := by
  unfold State.indexed
  cases c
  · simp only
    split
    · exact s.idle_state
    · exact .refl s
  · exact s.idle_state
  · exact s.idle_state

theorem State.effectiveAddress_state (c : AccessClass) (m : MemOperand) (s : State) :
    s.SameRegisters (s.effectiveAddress c m).2 := by
  cases m with
  | zp z => exact .refl s
  | zpX z => exact s.idle_state
  | zpY z => exact s.idle_state
  | abs a => exact .refl s
  | absX a => exact s.indexed_state c a s.x
  | absY a => exact s.indexed_state c a s.y
  | indX z => exact s.idle_state.trans (s.idle.zeroPagePointer_state (z + s.x))
  | indY z => exact (s.zeroPagePointer_state z).trans ((s.zeroPagePointer z).2.indexed_state c (s.zeroPagePointer z).1 s.y)

theorem State.readSource_state (o : Source) (s : State) : s.SameRegisters (s.readSource o).2 := by
  cases o with
  | imm v => exact .refl s
  | mem m => exact (s.effectiveAddress_state .read m).trans (State.read_state _ _)

theorem State.store_state (m : MemOperand) (v : Byte) (s : State) : s.SameRegisters (s.store m v) :=
  (s.effectiveAddress_state .write m).trans (State.write_state _ _ _)

theorem State.modifyRead_state (m : MemOperand) (s : State) : s.SameRegisters (s.modifyRead m).2 :=
  (s.effectiveAddress_state .readModifyWrite m).trans (State.read_state _ _)

/-- A read-modify-write in terms of its read. -/
theorem State.modify_eq (m : MemOperand) (f : Byte → Byte × Flags) (s : State) :
    s.modify m f =
      ((s.modifyRead m).2.idle.write (s.effectiveAddress .readModifyWrite m).1 (f (s.modifyRead m).1).1).setFlags
        (f (s.modifyRead m).1).2 := rfl

theorem State.modify_state (m : MemOperand) (f : Byte → Byte × Flags) (s : State) :
    s.modify m f =
      { s with
        flags := (f (s.modifyRead m).1).2
        lastAccessWasRead := false
        sys := (s.modify m f).sys } := by
  have h := ((s.modifyRead_state m).trans (s.modifyRead m).2.idle_state).trans
    (State.write_state (s.effectiveAddress .readModifyWrite m).1 (f (s.modifyRead m).1).1 _)
  rw [State.modify_eq]
  conv_lhs => rw [h.eq]
  rfl

/-- Cycles that form an effective address, before the data access. -/
def State.addressCycles (c : AccessClass) (m : MemOperand) (s : State) : Nat :=
  match m with
  | .zp _ => 0
  | .zpX _ => 1
  | .zpY _ => 1
  | .abs _ => 0
  | .absX _ => if c = .read ∧ s.operandCrosses m = false then 0 else 1
  | .absY _ => if c = .read ∧ s.operandCrosses m = false then 0 else 1
  | .indX _ => 3
  | .indY _ => if c = .read ∧ s.operandCrosses m = false then 2 else 3

theorem State.zeroPagePointer_run (z : Byte) (s : State) : System.Run 2 [] s.sys (s.zeroPagePointer z).2.sys :=
  (State.readLow_run (busAddr_zeroPage z) s).trans' (State.readLow_run (busAddr_zeroPage (z + 1)) _)

theorem State.indexed_run (c : AccessClass) (base : Word) (index : Byte) (s : State) :
    System.Run (if c = .read ∧ crossed base (base + index.setWidth 16) = false then 0 else 1) [] s.sys
      (s.indexed c base index).2.sys := by
  unfold State.indexed
  cases c
  · cases h : crossed base (base + index.setWidth 16)
    · simpa [h] using System.Run.refl s.sys
    · simpa [h] using s.idle_run
  · simpa using s.idle_run
  · simpa using s.idle_run

/-- Forming an effective address disturbs no byte. -/
theorem State.effectiveAddress_run (c : AccessClass) (m : MemOperand) (s : State) :
    System.Run (s.addressCycles c m) [] s.sys (s.effectiveAddress c m).2.sys := by
  cases m with
  | zp z => exact .refl _
  | zpX z => exact s.idle_run
  | zpY z => exact s.idle_run
  | abs a => exact .refl _
  | absX a => exact s.indexed_run c a s.x
  | absY a => exact s.indexed_run c a s.y
  | indX z => exact s.idle_run.trans' (State.zeroPagePointer_run (z + s.x) s.idle)
  | indY z =>
    refine (s.zeroPagePointer_run z).trans' ((s.zeroPagePointer z).2.indexed_run c (s.zeroPagePointer z).1 s.y) ?_ rfl
    simp only [State.addressCycles, State.operandCrosses]
    split
    · rename_i h
      exact (if_pos h).symm
    · rename_i h
      exact (if_neg h).symm

/-- Cycles of a read-class operand after its bytes are fetched. -/
def State.sourceCycles (o : Source) (s : State) : Nat :=
  match o with
  | .imm _ => 0
  | .mem m => s.addressCycles .read m + 1

theorem State.readSource_run (o : Source) (s : State) :
    System.Run (s.sourceCycles o) (s.sourcePlaces o) s.sys (s.readSource o).2.sys := by
  cases o with
  | imm v => exact .refl _
  | mem m => exact (s.effectiveAddress_run .read m).trans' ((s.effectiveAddress .read m).2.read_run _) rfl rfl

theorem State.store_run (m : MemOperand) (v : Byte) (s : State) :
    System.Run (s.addressCycles .write m + 1) (s.storePlaces m) s.sys (s.store m v).sys :=
  (s.effectiveAddress_run .write m).trans' ((s.effectiveAddress .write m).2.write_run _ v) rfl rfl

theorem State.modifyRead_run (m : MemOperand) (s : State) :
    System.Run (s.addressCycles .readModifyWrite m + 1)
      ((s.effectiveAddress .readModifyWrite m).2.readPlaces (s.effectiveAddress .readModifyWrite m).1) s.sys
      (s.modifyRead m).2.sys :=
  (s.effectiveAddress_run .readModifyWrite m).trans' ((s.effectiveAddress .readModifyWrite m).2.read_run _) rfl rfl

theorem State.modify_run (m : MemOperand) (f : Byte → Byte × Flags) (s : State) :
    System.Run (s.addressCycles .readModifyWrite m + 3) (s.modifyPlaces m) s.sys (s.modify m f).sys := by
  rw [State.modify_eq]
  refine ((s.modifyRead_run m).trans' (s.modifyRead m).2.idle_run rfl rfl).trans'
    ((s.modifyRead m).2.idle.write_run (s.effectiveAddress .readModifyWrite m).1 (f (s.modifyRead m).1).1) rfl ?_
  simp [State.modifyPlaces, State.writePlaces]

end Sys2Proof.Machine
end

