-- ==== Sys2Proof/Laws/Effects.lean ====
section
/-! SUPPORT. The shared effects of the instructions as runs of accesses, and every instruction as one. -/

namespace Sys2Proof.Machine

/-! ## Loads, stores, stack -/

theorem State.loadA_run (o : Source) (s : State) : System.Run (s.sourceCycles o) (s.sourcePlaces o) s.sys (s.loadA o).sys :=
  s.readSource_run o

theorem State.loadX_run (o : Source) (s : State) : System.Run (s.sourceCycles o) (s.sourcePlaces o) s.sys (s.loadX o).sys :=
  s.readSource_run o

theorem State.loadY_run (o : Source) (s : State) : System.Run (s.sourceCycles o) (s.sourcePlaces o) s.sys (s.loadY o).sys :=
  s.readSource_run o

theorem State.pha_run (s : State) : System.Run 2 (s.pushPlaces 1) s.sys s.pha.sys := by
  refine s.idle_run.trans' (s.idle.push_run s.a) rfl ?_
  rw [State.pushPlaces_congr (s := s) (t := s.idle) (.tick _) rfl]
  rfl

theorem State.php_run (s : State) : System.Run 2 (s.pushPlaces 1) s.sys s.php.sys := by
  refine s.idle_run.trans' (s.idle.push_run (s.flags.toByte ||| 0x30)) rfl ?_
  rw [State.pushPlaces_congr (s := s) (t := s.idle) (.tick _) rfl]
  rfl

theorem State.idle2_run (s : State) : System.Run 2 [] s.sys s.idle.idle.sys := s.idle_run.trans' s.idle.idle_run

theorem State.pla_run (s : State) : System.Run 3 [] s.sys s.pla.sys := s.idle2_run.trans' s.idle.idle.pull_run

theorem State.plp_run (s : State) : System.Run 3 [] s.sys s.plp.sys := s.idle2_run.trans' s.idle.idle.pull_run

/-! ## Arithmetic and logic -/

theorem System.Run.draw (y : System) : System.Run 0 [] y y.drawByte.2 := .setDraws _ y

theorem State.adc_run (o : Source) (s : State) : System.Run (s.sourceCycles o) (s.sourcePlaces o) s.sys (s.adc o).sys := by
  unfold State.adc
  simp only
  split
  · exact (s.readSource_run o).trans' (.draw _) rfl (List.append_nil _)
  · exact s.readSource_run o

theorem State.sbc_run (o : Source) (s : State) : System.Run (s.sourceCycles o) (s.sourcePlaces o) s.sys (s.sbc o).sys := by
  unfold State.sbc
  simp only
  split
  · exact (s.readSource_run o).trans' (.draw _) rfl (List.append_nil _)
  · exact s.readSource_run o

theorem State.andA_run (o : Source) (s : State) : System.Run (s.sourceCycles o) (s.sourcePlaces o) s.sys (s.andA o).sys :=
  s.readSource_run o

theorem State.oraA_run (o : Source) (s : State) : System.Run (s.sourceCycles o) (s.sourcePlaces o) s.sys (s.oraA o).sys :=
  s.readSource_run o

theorem State.eorA_run (o : Source) (s : State) : System.Run (s.sourceCycles o) (s.sourcePlaces o) s.sys (s.eorA o).sys :=
  s.readSource_run o

theorem State.compare_run (r : Byte) (o : Source) (s : State) :
    System.Run (s.sourceCycles o) (s.sourcePlaces o) s.sys (s.compare r o).sys := s.readSource_run o

theorem State.bitTest_run (o : Source) (s : State) :
    System.Run (s.sourceCycles o) (s.sourcePlaces o) s.sys (s.bitTest o).sys := s.readSource_run o

/-! ## Control -/

theorem State.branch_run (c : Bool) (d : Int) (s : State) :
    System.Run (if c then (if crossed s.pc (s.pc + displacement d) then 2 else 1) else 0) [] s.sys (s.branch c d).sys := by
  unfold State.branch
  cases c
  · exact .refl _
  · simp only [if_true, State.setPC_sys]
    split
    · exact s.idle2_run
    · exact s.idle_run

theorem State.rts_run (s : State) : System.Run 5 [] s.sys s.rts.sys :=
  (s.idle2_run.trans' s.idle.idle.pullWord_run rfl rfl).trans' s.idle.idle.pullWord.2.idle_run rfl rfl

theorem State.rti_run (s : State) : System.Run 5 [] s.sys s.rti.sys := s.idle2_run.trans' s.idle.idle.trapReturn_run

theorem State.brk_run (s : State) : System.Run 6 (s.pushPlaces 3) s.sys s.brk.sys := by
  refine s.idle_run.trans' (State.trap_run (vec := irqVector) (by decide) (by decide) (s.pc + 1) true s.idle) rfl ?_
  rw [State.pushPlaces_congr (s := s) (t := s.idle) (.tick _) rfl]
  rfl

/-- JSR: a cycle, two pushes, then the high byte's read. -/
theorem State.jsr_run (lo : Byte) (s : State) :
    System.Run 4 (s.pushPlaces 2 ++ (s.idle.pushWord s.pc).readPlaces s.pc) s.sys (s.jsr lo).sys := by
  simp only [State.jsr, State.setPC_sys, State.pushWord_pc, State.idle_pc]
  refine (s.idle_run.trans' (s.idle.pushWord_run s.pc) rfl rfl).trans' (State.read_run s.pc (s.idle.pushWord s.pc)) rfl ?_
  rw [State.pushPlaces_congr (s := s) (t := s.idle) (.tick _) rfl]
  rfl

/-- JMP (p): two reads at the pointer. -/
theorem State.jumpIndirect_run (p : Word) (s : State) :
    System.Run 2 (s.readPlaces p ++ (s.read p).2.readPlaces (wordOf (hiByte p) (loByte p + 1))) s.sys
      (s.jumpIndirect p).sys := by
  simp only [State.jumpIndirect, State.indirectTarget, State.setPC_sys]
  exact (s.read_run p).trans' (State.read_run _ (s.read p).2) rfl rfl

theorem System.Run.cast {n m : Nat} {ls : List Loc} {y z : System} (h : System.Run n ls y z) (e : m = n) :
    System.Run m ls y z := e ▸ h

end Sys2Proof.Machine
end

