-- ==== Sys2Proof/Laws/Exec.lean ====
section
/-! SUPPORT. Every instruction completes, as a run of accesses that takes the processor cycles of its cost which its fetched
bytes have not taken. -/

namespace Sys2Proof.Machine

/-- `exec i s` answers `t`, by the processor cycles of `i`'s cost that its fetched bytes have not taken. -/
def Completes (i : Instr) (s t : State) : Prop :=
  exec i s = .next t ∧ ∃ ls, System.Run (Instr.cost i s - (encode i).length) ls s.sys t.sys

theorem Completes.intro {i : Instr} {s t : State} {n : Nat} {ls : List Loc} (h : exec i s = .next t)
    (r : System.Run n ls s.sys t.sys) (e : Instr.cost i s = n + (encode i).length) : Completes i s t :=
  ⟨h, ls, r.cast (by omega)⟩

/-- The cost of an instruction with an indexed read-class operand. -/
theorem cost_crossing {i : Instr} {s : State} {m : MemOperand} (hm : i.operand = .src (.mem m))
    (hp : Mnemonic.paysCrossing i.mnemonic = true) :
    Instr.cost i s = Instr.baseCycles i + (if s.operandCrosses m = false then 0 else 1) := by
  cases h : s.operandCrosses m <;> simp [Instr.cost, Instr.penalty, hm, hp, h]

theorem completes (i : Instr) (s : State) : ∃ t, Completes i s t := by
  cases i with
  | ldaImm v => exact ⟨_, .intro rfl (s.loadA_run (.imm v)) rfl⟩
  | ldaZp z => exact ⟨_, .intro rfl (s.loadA_run (.mem (.zp z))) rfl⟩
  | ldaZpX z => exact ⟨_, .intro rfl (s.loadA_run (.mem (.zpX z))) rfl⟩
  | ldaAbs a => exact ⟨_, .intro rfl (s.loadA_run (.mem (.abs a))) rfl⟩
  | ldaAbsX a => exact ⟨_, .intro rfl (s.loadA_run (.mem (.absX a))) ((cost_crossing rfl rfl).trans (by simp only [State.sourceCycles, State.addressCycles, true_and]; split <;> rfl))⟩
  | ldaAbsY a => exact ⟨_, .intro rfl (s.loadA_run (.mem (.absY a))) ((cost_crossing rfl rfl).trans (by simp only [State.sourceCycles, State.addressCycles, true_and]; split <;> rfl))⟩
  | ldaIndX z => exact ⟨_, .intro rfl (s.loadA_run (.mem (.indX z))) rfl⟩
  | ldaIndY z => exact ⟨_, .intro rfl (s.loadA_run (.mem (.indY z))) ((cost_crossing rfl rfl).trans (by simp only [State.sourceCycles, State.addressCycles, true_and]; split <;> rfl))⟩
  | ldxImm v => exact ⟨_, .intro rfl (s.loadX_run (.imm v)) rfl⟩
  | ldxZp z => exact ⟨_, .intro rfl (s.loadX_run (.mem (.zp z))) rfl⟩
  | ldxZpY z => exact ⟨_, .intro rfl (s.loadX_run (.mem (.zpY z))) rfl⟩
  | ldxAbs a => exact ⟨_, .intro rfl (s.loadX_run (.mem (.abs a))) rfl⟩
  | ldxAbsY a => exact ⟨_, .intro rfl (s.loadX_run (.mem (.absY a))) ((cost_crossing rfl rfl).trans (by simp only [State.sourceCycles, State.addressCycles, true_and]; split <;> rfl))⟩
  | ldyImm v => exact ⟨_, .intro rfl (s.loadY_run (.imm v)) rfl⟩
  | ldyZp z => exact ⟨_, .intro rfl (s.loadY_run (.mem (.zp z))) rfl⟩
  | ldyZpX z => exact ⟨_, .intro rfl (s.loadY_run (.mem (.zpX z))) rfl⟩
  | ldyAbs a => exact ⟨_, .intro rfl (s.loadY_run (.mem (.abs a))) rfl⟩
  | ldyAbsX a => exact ⟨_, .intro rfl (s.loadY_run (.mem (.absX a))) ((cost_crossing rfl rfl).trans (by simp only [State.sourceCycles, State.addressCycles, true_and]; split <;> rfl))⟩
  | staZp z => exact ⟨_, .intro rfl (s.store_run (.zp z) s.a) rfl⟩
  | staZpX z => exact ⟨_, .intro rfl (s.store_run (.zpX z) s.a) rfl⟩
  | staAbs a => exact ⟨_, .intro rfl (s.store_run (.abs a) s.a) rfl⟩
  | staAbsX a => exact ⟨_, .intro rfl (s.store_run (.absX a) s.a) rfl⟩
  | staAbsY a => exact ⟨_, .intro rfl (s.store_run (.absY a) s.a) rfl⟩
  | staIndX z => exact ⟨_, .intro rfl (s.store_run (.indX z) s.a) rfl⟩
  | staIndY z => exact ⟨_, .intro rfl (s.store_run (.indY z) s.a) rfl⟩
  | stxZp z => exact ⟨_, .intro rfl (s.store_run (.zp z) s.x) rfl⟩
  | stxZpY z => exact ⟨_, .intro rfl (s.store_run (.zpY z) s.x) rfl⟩
  | stxAbs a => exact ⟨_, .intro rfl (s.store_run (.abs a) s.x) rfl⟩
  | styZp z => exact ⟨_, .intro rfl (s.store_run (.zp z) s.y) rfl⟩
  | styZpX z => exact ⟨_, .intro rfl (s.store_run (.zpX z) s.y) rfl⟩
  | styAbs a => exact ⟨_, .intro rfl (s.store_run (.abs a) s.y) rfl⟩
  | tax => exact ⟨_, .intro rfl s.idle_run rfl⟩
  | tay => exact ⟨_, .intro rfl s.idle_run rfl⟩
  | txa => exact ⟨_, .intro rfl s.idle_run rfl⟩
  | tya => exact ⟨_, .intro rfl s.idle_run rfl⟩
  | tsx => exact ⟨_, .intro rfl s.idle_run rfl⟩
  | txs => exact ⟨_, .intro rfl s.idle_run rfl⟩
  | pha => exact ⟨_, .intro rfl s.pha_run rfl⟩
  | php => exact ⟨_, .intro rfl s.php_run rfl⟩
  | pla => exact ⟨_, .intro rfl s.pla_run rfl⟩
  | plp => exact ⟨_, .intro rfl s.plp_run rfl⟩
  | adcImm v => exact ⟨_, .intro rfl (s.adc_run (.imm v)) rfl⟩
  | adcZp z => exact ⟨_, .intro rfl (s.adc_run (.mem (.zp z))) rfl⟩
  | adcZpX z => exact ⟨_, .intro rfl (s.adc_run (.mem (.zpX z))) rfl⟩
  | adcAbs a => exact ⟨_, .intro rfl (s.adc_run (.mem (.abs a))) rfl⟩
  | adcAbsX a => exact ⟨_, .intro rfl (s.adc_run (.mem (.absX a))) ((cost_crossing rfl rfl).trans (by simp only [State.sourceCycles, State.addressCycles, true_and]; split <;> rfl))⟩
  | adcAbsY a => exact ⟨_, .intro rfl (s.adc_run (.mem (.absY a))) ((cost_crossing rfl rfl).trans (by simp only [State.sourceCycles, State.addressCycles, true_and]; split <;> rfl))⟩
  | adcIndX z => exact ⟨_, .intro rfl (s.adc_run (.mem (.indX z))) rfl⟩
  | adcIndY z => exact ⟨_, .intro rfl (s.adc_run (.mem (.indY z))) ((cost_crossing rfl rfl).trans (by simp only [State.sourceCycles, State.addressCycles, true_and]; split <;> rfl))⟩
  | sbcImm v => exact ⟨_, .intro rfl (s.sbc_run (.imm v)) rfl⟩
  | sbcZp z => exact ⟨_, .intro rfl (s.sbc_run (.mem (.zp z))) rfl⟩
  | sbcZpX z => exact ⟨_, .intro rfl (s.sbc_run (.mem (.zpX z))) rfl⟩
  | sbcAbs a => exact ⟨_, .intro rfl (s.sbc_run (.mem (.abs a))) rfl⟩
  | sbcAbsX a => exact ⟨_, .intro rfl (s.sbc_run (.mem (.absX a))) ((cost_crossing rfl rfl).trans (by simp only [State.sourceCycles, State.addressCycles, true_and]; split <;> rfl))⟩
  | sbcAbsY a => exact ⟨_, .intro rfl (s.sbc_run (.mem (.absY a))) ((cost_crossing rfl rfl).trans (by simp only [State.sourceCycles, State.addressCycles, true_and]; split <;> rfl))⟩
  | sbcIndX z => exact ⟨_, .intro rfl (s.sbc_run (.mem (.indX z))) rfl⟩
  | sbcIndY z => exact ⟨_, .intro rfl (s.sbc_run (.mem (.indY z))) ((cost_crossing rfl rfl).trans (by simp only [State.sourceCycles, State.addressCycles, true_and]; split <;> rfl))⟩
  | andImm v => exact ⟨_, .intro rfl (s.andA_run (.imm v)) rfl⟩
  | andZp z => exact ⟨_, .intro rfl (s.andA_run (.mem (.zp z))) rfl⟩
  | andZpX z => exact ⟨_, .intro rfl (s.andA_run (.mem (.zpX z))) rfl⟩
  | andAbs a => exact ⟨_, .intro rfl (s.andA_run (.mem (.abs a))) rfl⟩
  | andAbsX a => exact ⟨_, .intro rfl (s.andA_run (.mem (.absX a))) ((cost_crossing rfl rfl).trans (by simp only [State.sourceCycles, State.addressCycles, true_and]; split <;> rfl))⟩
  | andAbsY a => exact ⟨_, .intro rfl (s.andA_run (.mem (.absY a))) ((cost_crossing rfl rfl).trans (by simp only [State.sourceCycles, State.addressCycles, true_and]; split <;> rfl))⟩
  | andIndX z => exact ⟨_, .intro rfl (s.andA_run (.mem (.indX z))) rfl⟩
  | andIndY z => exact ⟨_, .intro rfl (s.andA_run (.mem (.indY z))) ((cost_crossing rfl rfl).trans (by simp only [State.sourceCycles, State.addressCycles, true_and]; split <;> rfl))⟩
  | oraImm v => exact ⟨_, .intro rfl (s.oraA_run (.imm v)) rfl⟩
  | oraZp z => exact ⟨_, .intro rfl (s.oraA_run (.mem (.zp z))) rfl⟩
  | oraZpX z => exact ⟨_, .intro rfl (s.oraA_run (.mem (.zpX z))) rfl⟩
  | oraAbs a => exact ⟨_, .intro rfl (s.oraA_run (.mem (.abs a))) rfl⟩
  | oraAbsX a => exact ⟨_, .intro rfl (s.oraA_run (.mem (.absX a))) ((cost_crossing rfl rfl).trans (by simp only [State.sourceCycles, State.addressCycles, true_and]; split <;> rfl))⟩
  | oraAbsY a => exact ⟨_, .intro rfl (s.oraA_run (.mem (.absY a))) ((cost_crossing rfl rfl).trans (by simp only [State.sourceCycles, State.addressCycles, true_and]; split <;> rfl))⟩
  | oraIndX z => exact ⟨_, .intro rfl (s.oraA_run (.mem (.indX z))) rfl⟩
  | oraIndY z => exact ⟨_, .intro rfl (s.oraA_run (.mem (.indY z))) ((cost_crossing rfl rfl).trans (by simp only [State.sourceCycles, State.addressCycles, true_and]; split <;> rfl))⟩
  | eorImm v => exact ⟨_, .intro rfl (s.eorA_run (.imm v)) rfl⟩
  | eorZp z => exact ⟨_, .intro rfl (s.eorA_run (.mem (.zp z))) rfl⟩
  | eorZpX z => exact ⟨_, .intro rfl (s.eorA_run (.mem (.zpX z))) rfl⟩
  | eorAbs a => exact ⟨_, .intro rfl (s.eorA_run (.mem (.abs a))) rfl⟩
  | eorAbsX a => exact ⟨_, .intro rfl (s.eorA_run (.mem (.absX a))) ((cost_crossing rfl rfl).trans (by simp only [State.sourceCycles, State.addressCycles, true_and]; split <;> rfl))⟩
  | eorAbsY a => exact ⟨_, .intro rfl (s.eorA_run (.mem (.absY a))) ((cost_crossing rfl rfl).trans (by simp only [State.sourceCycles, State.addressCycles, true_and]; split <;> rfl))⟩
  | eorIndX z => exact ⟨_, .intro rfl (s.eorA_run (.mem (.indX z))) rfl⟩
  | eorIndY z => exact ⟨_, .intro rfl (s.eorA_run (.mem (.indY z))) ((cost_crossing rfl rfl).trans (by simp only [State.sourceCycles, State.addressCycles, true_and]; split <;> rfl))⟩
  | cmpImm v => exact ⟨_, .intro rfl (s.compare_run s.a (.imm v)) rfl⟩
  | cmpZp z => exact ⟨_, .intro rfl (s.compare_run s.a (.mem (.zp z))) rfl⟩
  | cmpZpX z => exact ⟨_, .intro rfl (s.compare_run s.a (.mem (.zpX z))) rfl⟩
  | cmpAbs a => exact ⟨_, .intro rfl (s.compare_run s.a (.mem (.abs a))) rfl⟩
  | cmpAbsX a => exact ⟨_, .intro rfl (s.compare_run s.a (.mem (.absX a))) ((cost_crossing rfl rfl).trans (by simp only [State.sourceCycles, State.addressCycles, true_and]; split <;> rfl))⟩
  | cmpAbsY a => exact ⟨_, .intro rfl (s.compare_run s.a (.mem (.absY a))) ((cost_crossing rfl rfl).trans (by simp only [State.sourceCycles, State.addressCycles, true_and]; split <;> rfl))⟩
  | cmpIndX z => exact ⟨_, .intro rfl (s.compare_run s.a (.mem (.indX z))) rfl⟩
  | cmpIndY z => exact ⟨_, .intro rfl (s.compare_run s.a (.mem (.indY z))) ((cost_crossing rfl rfl).trans (by simp only [State.sourceCycles, State.addressCycles, true_and]; split <;> rfl))⟩
  | cpxImm v => exact ⟨_, .intro rfl (s.compare_run s.x (.imm v)) rfl⟩
  | cpxZp z => exact ⟨_, .intro rfl (s.compare_run s.x (.mem (.zp z))) rfl⟩
  | cpxAbs a => exact ⟨_, .intro rfl (s.compare_run s.x (.mem (.abs a))) rfl⟩
  | cpyImm v => exact ⟨_, .intro rfl (s.compare_run s.y (.imm v)) rfl⟩
  | cpyZp z => exact ⟨_, .intro rfl (s.compare_run s.y (.mem (.zp z))) rfl⟩
  | cpyAbs a => exact ⟨_, .intro rfl (s.compare_run s.y (.mem (.abs a))) rfl⟩
  | bitZp z => exact ⟨_, .intro rfl (s.bitTest_run (.mem (.zp z))) rfl⟩
  | bitAbs a => exact ⟨_, .intro rfl (s.bitTest_run (.mem (.abs a))) rfl⟩
  | incZp z => exact ⟨_, .intro rfl (s.modify_run (.zp z) _) rfl⟩
  | incZpX z => exact ⟨_, .intro rfl (s.modify_run (.zpX z) _) rfl⟩
  | incAbs a => exact ⟨_, .intro rfl (s.modify_run (.abs a) _) rfl⟩
  | incAbsX a => exact ⟨_, .intro rfl (s.modify_run (.absX a) _) rfl⟩
  | decZp z => exact ⟨_, .intro rfl (s.modify_run (.zp z) _) rfl⟩
  | decZpX z => exact ⟨_, .intro rfl (s.modify_run (.zpX z) _) rfl⟩
  | decAbs a => exact ⟨_, .intro rfl (s.modify_run (.abs a) _) rfl⟩
  | decAbsX a => exact ⟨_, .intro rfl (s.modify_run (.absX a) _) rfl⟩
  | inx => exact ⟨_, .intro rfl s.idle_run rfl⟩
  | iny => exact ⟨_, .intro rfl s.idle_run rfl⟩
  | dex => exact ⟨_, .intro rfl s.idle_run rfl⟩
  | dey => exact ⟨_, .intro rfl s.idle_run rfl⟩
  | aslAcc => exact ⟨_, .intro rfl s.idle_run rfl⟩
  | aslZp z => exact ⟨_, .intro rfl (s.modify_run (.zp z) _) rfl⟩
  | aslZpX z => exact ⟨_, .intro rfl (s.modify_run (.zpX z) _) rfl⟩
  | aslAbs a => exact ⟨_, .intro rfl (s.modify_run (.abs a) _) rfl⟩
  | aslAbsX a => exact ⟨_, .intro rfl (s.modify_run (.absX a) _) rfl⟩
  | lsrAcc => exact ⟨_, .intro rfl s.idle_run rfl⟩
  | lsrZp z => exact ⟨_, .intro rfl (s.modify_run (.zp z) _) rfl⟩
  | lsrZpX z => exact ⟨_, .intro rfl (s.modify_run (.zpX z) _) rfl⟩
  | lsrAbs a => exact ⟨_, .intro rfl (s.modify_run (.abs a) _) rfl⟩
  | lsrAbsX a => exact ⟨_, .intro rfl (s.modify_run (.absX a) _) rfl⟩
  | rolAcc => exact ⟨_, .intro rfl s.idle_run rfl⟩
  | rolZp z => exact ⟨_, .intro rfl (s.modify_run (.zp z) _) rfl⟩
  | rolZpX z => exact ⟨_, .intro rfl (s.modify_run (.zpX z) _) rfl⟩
  | rolAbs a => exact ⟨_, .intro rfl (s.modify_run (.abs a) _) rfl⟩
  | rolAbsX a => exact ⟨_, .intro rfl (s.modify_run (.absX a) _) rfl⟩
  | rorAcc => exact ⟨_, .intro rfl s.idle_run rfl⟩
  | rorZp z => exact ⟨_, .intro rfl (s.modify_run (.zp z) _) rfl⟩
  | rorZpX z => exact ⟨_, .intro rfl (s.modify_run (.zpX z) _) rfl⟩
  | rorAbs a => exact ⟨_, .intro rfl (s.modify_run (.abs a) _) rfl⟩
  | rorAbsX a => exact ⟨_, .intro rfl (s.modify_run (.absX a) _) rfl⟩
  | bcc d => exact ⟨_, .intro rfl (s.branch_run (!s.flags.c) d) (Nat.add_comm _ _)⟩
  | bcs d => exact ⟨_, .intro rfl (s.branch_run (s.flags.c) d) (Nat.add_comm _ _)⟩
  | beq d => exact ⟨_, .intro rfl (s.branch_run (s.flags.z) d) (Nat.add_comm _ _)⟩
  | bmi d => exact ⟨_, .intro rfl (s.branch_run (s.flags.n) d) (Nat.add_comm _ _)⟩
  | bne d => exact ⟨_, .intro rfl (s.branch_run (!s.flags.z) d) (Nat.add_comm _ _)⟩
  | bpl d => exact ⟨_, .intro rfl (s.branch_run (!s.flags.n) d) (Nat.add_comm _ _)⟩
  | bvc d => exact ⟨_, .intro rfl (s.branch_run (!s.flags.v) d) (Nat.add_comm _ _)⟩
  | bvs d => exact ⟨_, .intro rfl (s.branch_run (s.flags.v) d) (Nat.add_comm _ _)⟩
  | jmpAbs a => exact ⟨_, .intro rfl (System.Run.refl s.sys) rfl⟩
  | jmpInd p => exact ⟨_, .intro rfl (s.jumpIndirect_run p) rfl⟩
  | jsr lo => exact ⟨_, .intro rfl (s.jsr_run lo) rfl⟩
  | rts => exact ⟨_, .intro rfl s.rts_run rfl⟩
  | brk => exact ⟨_, .intro rfl s.brk_run rfl⟩
  | rti => exact ⟨_, .intro rfl s.rti_run rfl⟩
  | nop => exact ⟨_, .intro rfl s.idle_run rfl⟩
  | clc => exact ⟨_, .intro rfl s.idle_run rfl⟩
  | cld => exact ⟨_, .intro rfl s.idle_run rfl⟩
  | cli => exact ⟨_, .intro rfl s.idle_run rfl⟩
  | clv => exact ⟨_, .intro rfl s.idle_run rfl⟩
  | sec => exact ⟨_, .intro rfl s.idle_run rfl⟩
  | sed => exact ⟨_, .intro rfl s.idle_run rfl⟩
  | sei => exact ⟨_, .intro rfl s.idle_run rfl⟩

/-- Every instruction answers a next state. -/
theorem exec_next (i : Instr) (s : State) : ∃ t, exec i s = .next t := (completes i s).imp fun _ h => h.1

/-- What an instruction that answers `t` can do. -/
theorem exec_run {i : Instr} {s t : State} (h : exec i s = .next t) :
    ∃ ls, System.Run (Instr.cost i s - (encode i).length) ls s.sys t.sys := by
  obtain ⟨u, hu, hr⟩ := completes i s
  rw [hu] at h
  cases h
  exact hr

end Sys2Proof.Machine
end

