-- ==== Sys2Proof/Laws/PerInstr.lean ====
section
/-! SUPPORT. Statements made of every instruction, one lemma per constructor. `EncodedForm`: the opcode names the
instruction's form, and with the operand bytes of a well-formed instruction it names the instruction. -/

namespace Sys2Proof.Laws

/-- The opcode's addressing mode and operand byte count are the instruction's (30_encoding.md R141, R154; 60_exceptions.md
R306), and the opcode map reads the instruction back from its operand bytes. -/
def EncodedForm.Statement (i : Instr) : Prop :=
  addressingMode i.opcode = some i.mode ∧ operandBytesOf i.opcode = i.operand.bytes.length
    ∧ (i.wf = true → ∀ rest,
        instrOf i.opcode ((i.operand.bytes ++ rest).getD 0 0) ((i.operand.bytes ++ rest).getD 1 0) = some i)

/-- A row of the opcode map gives the three parts. -/
theorem EncodedForm.of_row {i : Instr} (f : Byte → Byte → Instr) (row : ∀ b1 b2, instrOf i.opcode b1 b2 = some (f b1 b2))
    (mode : (f 0 0).mode = i.mode) (bytes : (f 0 0).operand.bytes.length = i.operand.bytes.length)
    (back : i.wf = true → ∀ rest, f ((i.operand.bytes ++ rest).getD 0 0) ((i.operand.bytes ++ rest).getD 1 0) = i) :
    EncodedForm.Statement i := by
  refine ⟨?_, ?_, fun h rest => (row _ _).trans (congrArg some (back h rest))⟩
  · rw [addressingMode, row, Option.map_some, mode]
  · rw [operandBytesOf, row, Option.map_some, Option.getD_some, bytes]

theorem EncodedForm.ldaImm (v : Byte) : EncodedForm.Statement (.ldaImm v) :=
  EncodedForm.of_row (fun b _ => .ldaImm b) (fun _ _ => rfl) rfl rfl (fun _ _ => rfl)

theorem EncodedForm.ldaZp (z : Byte) : EncodedForm.Statement (.ldaZp z) :=
  EncodedForm.of_row (fun b _ => .ldaZp b) (fun _ _ => rfl) rfl rfl (fun _ _ => rfl)

theorem EncodedForm.ldaZpX (z : Byte) : EncodedForm.Statement (.ldaZpX z) :=
  EncodedForm.of_row (fun b _ => .ldaZpX b) (fun _ _ => rfl) rfl rfl (fun _ _ => rfl)

theorem EncodedForm.ldaAbs (a : Word) : EncodedForm.Statement (.ldaAbs a) :=
  EncodedForm.of_row (fun l h => .ldaAbs (wordOf h l)) (fun _ _ => rfl) rfl rfl (fun _ _ => congrArg Instr.ldaAbs (wordOf_hi_lo a))

theorem EncodedForm.ldaAbsX (a : Word) : EncodedForm.Statement (.ldaAbsX a) :=
  EncodedForm.of_row (fun l h => .ldaAbsX (wordOf h l)) (fun _ _ => rfl) rfl rfl (fun _ _ => congrArg Instr.ldaAbsX (wordOf_hi_lo a))

theorem EncodedForm.ldaAbsY (a : Word) : EncodedForm.Statement (.ldaAbsY a) :=
  EncodedForm.of_row (fun l h => .ldaAbsY (wordOf h l)) (fun _ _ => rfl) rfl rfl (fun _ _ => congrArg Instr.ldaAbsY (wordOf_hi_lo a))

theorem EncodedForm.ldaIndX (z : Byte) : EncodedForm.Statement (.ldaIndX z) :=
  EncodedForm.of_row (fun b _ => .ldaIndX b) (fun _ _ => rfl) rfl rfl (fun _ _ => rfl)

theorem EncodedForm.ldaIndY (z : Byte) : EncodedForm.Statement (.ldaIndY z) :=
  EncodedForm.of_row (fun b _ => .ldaIndY b) (fun _ _ => rfl) rfl rfl (fun _ _ => rfl)

theorem EncodedForm.ldxImm (v : Byte) : EncodedForm.Statement (.ldxImm v) :=
  EncodedForm.of_row (fun b _ => .ldxImm b) (fun _ _ => rfl) rfl rfl (fun _ _ => rfl)

theorem EncodedForm.ldxZp (z : Byte) : EncodedForm.Statement (.ldxZp z) :=
  EncodedForm.of_row (fun b _ => .ldxZp b) (fun _ _ => rfl) rfl rfl (fun _ _ => rfl)

theorem EncodedForm.ldxZpY (z : Byte) : EncodedForm.Statement (.ldxZpY z) :=
  EncodedForm.of_row (fun b _ => .ldxZpY b) (fun _ _ => rfl) rfl rfl (fun _ _ => rfl)

theorem EncodedForm.ldxAbs (a : Word) : EncodedForm.Statement (.ldxAbs a) :=
  EncodedForm.of_row (fun l h => .ldxAbs (wordOf h l)) (fun _ _ => rfl) rfl rfl (fun _ _ => congrArg Instr.ldxAbs (wordOf_hi_lo a))

theorem EncodedForm.ldxAbsY (a : Word) : EncodedForm.Statement (.ldxAbsY a) :=
  EncodedForm.of_row (fun l h => .ldxAbsY (wordOf h l)) (fun _ _ => rfl) rfl rfl (fun _ _ => congrArg Instr.ldxAbsY (wordOf_hi_lo a))

theorem EncodedForm.ldyImm (v : Byte) : EncodedForm.Statement (.ldyImm v) :=
  EncodedForm.of_row (fun b _ => .ldyImm b) (fun _ _ => rfl) rfl rfl (fun _ _ => rfl)

theorem EncodedForm.ldyZp (z : Byte) : EncodedForm.Statement (.ldyZp z) :=
  EncodedForm.of_row (fun b _ => .ldyZp b) (fun _ _ => rfl) rfl rfl (fun _ _ => rfl)

theorem EncodedForm.ldyZpX (z : Byte) : EncodedForm.Statement (.ldyZpX z) :=
  EncodedForm.of_row (fun b _ => .ldyZpX b) (fun _ _ => rfl) rfl rfl (fun _ _ => rfl)

theorem EncodedForm.ldyAbs (a : Word) : EncodedForm.Statement (.ldyAbs a) :=
  EncodedForm.of_row (fun l h => .ldyAbs (wordOf h l)) (fun _ _ => rfl) rfl rfl (fun _ _ => congrArg Instr.ldyAbs (wordOf_hi_lo a))

theorem EncodedForm.ldyAbsX (a : Word) : EncodedForm.Statement (.ldyAbsX a) :=
  EncodedForm.of_row (fun l h => .ldyAbsX (wordOf h l)) (fun _ _ => rfl) rfl rfl (fun _ _ => congrArg Instr.ldyAbsX (wordOf_hi_lo a))

theorem EncodedForm.staZp (z : Byte) : EncodedForm.Statement (.staZp z) :=
  EncodedForm.of_row (fun b _ => .staZp b) (fun _ _ => rfl) rfl rfl (fun _ _ => rfl)

theorem EncodedForm.staZpX (z : Byte) : EncodedForm.Statement (.staZpX z) :=
  EncodedForm.of_row (fun b _ => .staZpX b) (fun _ _ => rfl) rfl rfl (fun _ _ => rfl)

theorem EncodedForm.staAbs (a : Word) : EncodedForm.Statement (.staAbs a) :=
  EncodedForm.of_row (fun l h => .staAbs (wordOf h l)) (fun _ _ => rfl) rfl rfl (fun _ _ => congrArg Instr.staAbs (wordOf_hi_lo a))

theorem EncodedForm.staAbsX (a : Word) : EncodedForm.Statement (.staAbsX a) :=
  EncodedForm.of_row (fun l h => .staAbsX (wordOf h l)) (fun _ _ => rfl) rfl rfl (fun _ _ => congrArg Instr.staAbsX (wordOf_hi_lo a))

theorem EncodedForm.staAbsY (a : Word) : EncodedForm.Statement (.staAbsY a) :=
  EncodedForm.of_row (fun l h => .staAbsY (wordOf h l)) (fun _ _ => rfl) rfl rfl (fun _ _ => congrArg Instr.staAbsY (wordOf_hi_lo a))

theorem EncodedForm.staIndX (z : Byte) : EncodedForm.Statement (.staIndX z) :=
  EncodedForm.of_row (fun b _ => .staIndX b) (fun _ _ => rfl) rfl rfl (fun _ _ => rfl)

theorem EncodedForm.staIndY (z : Byte) : EncodedForm.Statement (.staIndY z) :=
  EncodedForm.of_row (fun b _ => .staIndY b) (fun _ _ => rfl) rfl rfl (fun _ _ => rfl)

theorem EncodedForm.stxZp (z : Byte) : EncodedForm.Statement (.stxZp z) :=
  EncodedForm.of_row (fun b _ => .stxZp b) (fun _ _ => rfl) rfl rfl (fun _ _ => rfl)

theorem EncodedForm.stxZpY (z : Byte) : EncodedForm.Statement (.stxZpY z) :=
  EncodedForm.of_row (fun b _ => .stxZpY b) (fun _ _ => rfl) rfl rfl (fun _ _ => rfl)

theorem EncodedForm.stxAbs (a : Word) : EncodedForm.Statement (.stxAbs a) :=
  EncodedForm.of_row (fun l h => .stxAbs (wordOf h l)) (fun _ _ => rfl) rfl rfl (fun _ _ => congrArg Instr.stxAbs (wordOf_hi_lo a))

theorem EncodedForm.styZp (z : Byte) : EncodedForm.Statement (.styZp z) :=
  EncodedForm.of_row (fun b _ => .styZp b) (fun _ _ => rfl) rfl rfl (fun _ _ => rfl)

theorem EncodedForm.styZpX (z : Byte) : EncodedForm.Statement (.styZpX z) :=
  EncodedForm.of_row (fun b _ => .styZpX b) (fun _ _ => rfl) rfl rfl (fun _ _ => rfl)

theorem EncodedForm.styAbs (a : Word) : EncodedForm.Statement (.styAbs a) :=
  EncodedForm.of_row (fun l h => .styAbs (wordOf h l)) (fun _ _ => rfl) rfl rfl (fun _ _ => congrArg Instr.styAbs (wordOf_hi_lo a))

theorem EncodedForm.tax : EncodedForm.Statement .tax :=
  EncodedForm.of_row (fun _ _ => .tax) (fun _ _ => rfl) rfl rfl (fun _ _ => rfl)

theorem EncodedForm.tay : EncodedForm.Statement .tay :=
  EncodedForm.of_row (fun _ _ => .tay) (fun _ _ => rfl) rfl rfl (fun _ _ => rfl)

theorem EncodedForm.txa : EncodedForm.Statement .txa :=
  EncodedForm.of_row (fun _ _ => .txa) (fun _ _ => rfl) rfl rfl (fun _ _ => rfl)

theorem EncodedForm.tya : EncodedForm.Statement .tya :=
  EncodedForm.of_row (fun _ _ => .tya) (fun _ _ => rfl) rfl rfl (fun _ _ => rfl)

theorem EncodedForm.tsx : EncodedForm.Statement .tsx :=
  EncodedForm.of_row (fun _ _ => .tsx) (fun _ _ => rfl) rfl rfl (fun _ _ => rfl)

theorem EncodedForm.txs : EncodedForm.Statement .txs :=
  EncodedForm.of_row (fun _ _ => .txs) (fun _ _ => rfl) rfl rfl (fun _ _ => rfl)

theorem EncodedForm.pha : EncodedForm.Statement .pha :=
  EncodedForm.of_row (fun _ _ => .pha) (fun _ _ => rfl) rfl rfl (fun _ _ => rfl)

theorem EncodedForm.php : EncodedForm.Statement .php :=
  EncodedForm.of_row (fun _ _ => .php) (fun _ _ => rfl) rfl rfl (fun _ _ => rfl)

theorem EncodedForm.pla : EncodedForm.Statement .pla :=
  EncodedForm.of_row (fun _ _ => .pla) (fun _ _ => rfl) rfl rfl (fun _ _ => rfl)

theorem EncodedForm.plp : EncodedForm.Statement .plp :=
  EncodedForm.of_row (fun _ _ => .plp) (fun _ _ => rfl) rfl rfl (fun _ _ => rfl)

theorem EncodedForm.adcImm (v : Byte) : EncodedForm.Statement (.adcImm v) :=
  EncodedForm.of_row (fun b _ => .adcImm b) (fun _ _ => rfl) rfl rfl (fun _ _ => rfl)

theorem EncodedForm.adcZp (z : Byte) : EncodedForm.Statement (.adcZp z) :=
  EncodedForm.of_row (fun b _ => .adcZp b) (fun _ _ => rfl) rfl rfl (fun _ _ => rfl)

theorem EncodedForm.adcZpX (z : Byte) : EncodedForm.Statement (.adcZpX z) :=
  EncodedForm.of_row (fun b _ => .adcZpX b) (fun _ _ => rfl) rfl rfl (fun _ _ => rfl)

theorem EncodedForm.adcAbs (a : Word) : EncodedForm.Statement (.adcAbs a) :=
  EncodedForm.of_row (fun l h => .adcAbs (wordOf h l)) (fun _ _ => rfl) rfl rfl (fun _ _ => congrArg Instr.adcAbs (wordOf_hi_lo a))

theorem EncodedForm.adcAbsX (a : Word) : EncodedForm.Statement (.adcAbsX a) :=
  EncodedForm.of_row (fun l h => .adcAbsX (wordOf h l)) (fun _ _ => rfl) rfl rfl (fun _ _ => congrArg Instr.adcAbsX (wordOf_hi_lo a))

theorem EncodedForm.adcAbsY (a : Word) : EncodedForm.Statement (.adcAbsY a) :=
  EncodedForm.of_row (fun l h => .adcAbsY (wordOf h l)) (fun _ _ => rfl) rfl rfl (fun _ _ => congrArg Instr.adcAbsY (wordOf_hi_lo a))

theorem EncodedForm.adcIndX (z : Byte) : EncodedForm.Statement (.adcIndX z) :=
  EncodedForm.of_row (fun b _ => .adcIndX b) (fun _ _ => rfl) rfl rfl (fun _ _ => rfl)

theorem EncodedForm.adcIndY (z : Byte) : EncodedForm.Statement (.adcIndY z) :=
  EncodedForm.of_row (fun b _ => .adcIndY b) (fun _ _ => rfl) rfl rfl (fun _ _ => rfl)

theorem EncodedForm.sbcImm (v : Byte) : EncodedForm.Statement (.sbcImm v) :=
  EncodedForm.of_row (fun b _ => .sbcImm b) (fun _ _ => rfl) rfl rfl (fun _ _ => rfl)

theorem EncodedForm.sbcZp (z : Byte) : EncodedForm.Statement (.sbcZp z) :=
  EncodedForm.of_row (fun b _ => .sbcZp b) (fun _ _ => rfl) rfl rfl (fun _ _ => rfl)

theorem EncodedForm.sbcZpX (z : Byte) : EncodedForm.Statement (.sbcZpX z) :=
  EncodedForm.of_row (fun b _ => .sbcZpX b) (fun _ _ => rfl) rfl rfl (fun _ _ => rfl)

theorem EncodedForm.sbcAbs (a : Word) : EncodedForm.Statement (.sbcAbs a) :=
  EncodedForm.of_row (fun l h => .sbcAbs (wordOf h l)) (fun _ _ => rfl) rfl rfl (fun _ _ => congrArg Instr.sbcAbs (wordOf_hi_lo a))

theorem EncodedForm.sbcAbsX (a : Word) : EncodedForm.Statement (.sbcAbsX a) :=
  EncodedForm.of_row (fun l h => .sbcAbsX (wordOf h l)) (fun _ _ => rfl) rfl rfl (fun _ _ => congrArg Instr.sbcAbsX (wordOf_hi_lo a))

theorem EncodedForm.sbcAbsY (a : Word) : EncodedForm.Statement (.sbcAbsY a) :=
  EncodedForm.of_row (fun l h => .sbcAbsY (wordOf h l)) (fun _ _ => rfl) rfl rfl (fun _ _ => congrArg Instr.sbcAbsY (wordOf_hi_lo a))

theorem EncodedForm.sbcIndX (z : Byte) : EncodedForm.Statement (.sbcIndX z) :=
  EncodedForm.of_row (fun b _ => .sbcIndX b) (fun _ _ => rfl) rfl rfl (fun _ _ => rfl)

theorem EncodedForm.sbcIndY (z : Byte) : EncodedForm.Statement (.sbcIndY z) :=
  EncodedForm.of_row (fun b _ => .sbcIndY b) (fun _ _ => rfl) rfl rfl (fun _ _ => rfl)

theorem EncodedForm.andImm (v : Byte) : EncodedForm.Statement (.andImm v) :=
  EncodedForm.of_row (fun b _ => .andImm b) (fun _ _ => rfl) rfl rfl (fun _ _ => rfl)

theorem EncodedForm.andZp (z : Byte) : EncodedForm.Statement (.andZp z) :=
  EncodedForm.of_row (fun b _ => .andZp b) (fun _ _ => rfl) rfl rfl (fun _ _ => rfl)

theorem EncodedForm.andZpX (z : Byte) : EncodedForm.Statement (.andZpX z) :=
  EncodedForm.of_row (fun b _ => .andZpX b) (fun _ _ => rfl) rfl rfl (fun _ _ => rfl)

theorem EncodedForm.andAbs (a : Word) : EncodedForm.Statement (.andAbs a) :=
  EncodedForm.of_row (fun l h => .andAbs (wordOf h l)) (fun _ _ => rfl) rfl rfl (fun _ _ => congrArg Instr.andAbs (wordOf_hi_lo a))

theorem EncodedForm.andAbsX (a : Word) : EncodedForm.Statement (.andAbsX a) :=
  EncodedForm.of_row (fun l h => .andAbsX (wordOf h l)) (fun _ _ => rfl) rfl rfl (fun _ _ => congrArg Instr.andAbsX (wordOf_hi_lo a))

theorem EncodedForm.andAbsY (a : Word) : EncodedForm.Statement (.andAbsY a) :=
  EncodedForm.of_row (fun l h => .andAbsY (wordOf h l)) (fun _ _ => rfl) rfl rfl (fun _ _ => congrArg Instr.andAbsY (wordOf_hi_lo a))

theorem EncodedForm.andIndX (z : Byte) : EncodedForm.Statement (.andIndX z) :=
  EncodedForm.of_row (fun b _ => .andIndX b) (fun _ _ => rfl) rfl rfl (fun _ _ => rfl)

theorem EncodedForm.andIndY (z : Byte) : EncodedForm.Statement (.andIndY z) :=
  EncodedForm.of_row (fun b _ => .andIndY b) (fun _ _ => rfl) rfl rfl (fun _ _ => rfl)

theorem EncodedForm.oraImm (v : Byte) : EncodedForm.Statement (.oraImm v) :=
  EncodedForm.of_row (fun b _ => .oraImm b) (fun _ _ => rfl) rfl rfl (fun _ _ => rfl)

theorem EncodedForm.oraZp (z : Byte) : EncodedForm.Statement (.oraZp z) :=
  EncodedForm.of_row (fun b _ => .oraZp b) (fun _ _ => rfl) rfl rfl (fun _ _ => rfl)

theorem EncodedForm.oraZpX (z : Byte) : EncodedForm.Statement (.oraZpX z) :=
  EncodedForm.of_row (fun b _ => .oraZpX b) (fun _ _ => rfl) rfl rfl (fun _ _ => rfl)

theorem EncodedForm.oraAbs (a : Word) : EncodedForm.Statement (.oraAbs a) :=
  EncodedForm.of_row (fun l h => .oraAbs (wordOf h l)) (fun _ _ => rfl) rfl rfl (fun _ _ => congrArg Instr.oraAbs (wordOf_hi_lo a))

theorem EncodedForm.oraAbsX (a : Word) : EncodedForm.Statement (.oraAbsX a) :=
  EncodedForm.of_row (fun l h => .oraAbsX (wordOf h l)) (fun _ _ => rfl) rfl rfl (fun _ _ => congrArg Instr.oraAbsX (wordOf_hi_lo a))

theorem EncodedForm.oraAbsY (a : Word) : EncodedForm.Statement (.oraAbsY a) :=
  EncodedForm.of_row (fun l h => .oraAbsY (wordOf h l)) (fun _ _ => rfl) rfl rfl (fun _ _ => congrArg Instr.oraAbsY (wordOf_hi_lo a))

theorem EncodedForm.oraIndX (z : Byte) : EncodedForm.Statement (.oraIndX z) :=
  EncodedForm.of_row (fun b _ => .oraIndX b) (fun _ _ => rfl) rfl rfl (fun _ _ => rfl)

theorem EncodedForm.oraIndY (z : Byte) : EncodedForm.Statement (.oraIndY z) :=
  EncodedForm.of_row (fun b _ => .oraIndY b) (fun _ _ => rfl) rfl rfl (fun _ _ => rfl)

theorem EncodedForm.eorImm (v : Byte) : EncodedForm.Statement (.eorImm v) :=
  EncodedForm.of_row (fun b _ => .eorImm b) (fun _ _ => rfl) rfl rfl (fun _ _ => rfl)

theorem EncodedForm.eorZp (z : Byte) : EncodedForm.Statement (.eorZp z) :=
  EncodedForm.of_row (fun b _ => .eorZp b) (fun _ _ => rfl) rfl rfl (fun _ _ => rfl)

theorem EncodedForm.eorZpX (z : Byte) : EncodedForm.Statement (.eorZpX z) :=
  EncodedForm.of_row (fun b _ => .eorZpX b) (fun _ _ => rfl) rfl rfl (fun _ _ => rfl)

theorem EncodedForm.eorAbs (a : Word) : EncodedForm.Statement (.eorAbs a) :=
  EncodedForm.of_row (fun l h => .eorAbs (wordOf h l)) (fun _ _ => rfl) rfl rfl (fun _ _ => congrArg Instr.eorAbs (wordOf_hi_lo a))

theorem EncodedForm.eorAbsX (a : Word) : EncodedForm.Statement (.eorAbsX a) :=
  EncodedForm.of_row (fun l h => .eorAbsX (wordOf h l)) (fun _ _ => rfl) rfl rfl (fun _ _ => congrArg Instr.eorAbsX (wordOf_hi_lo a))

theorem EncodedForm.eorAbsY (a : Word) : EncodedForm.Statement (.eorAbsY a) :=
  EncodedForm.of_row (fun l h => .eorAbsY (wordOf h l)) (fun _ _ => rfl) rfl rfl (fun _ _ => congrArg Instr.eorAbsY (wordOf_hi_lo a))

theorem EncodedForm.eorIndX (z : Byte) : EncodedForm.Statement (.eorIndX z) :=
  EncodedForm.of_row (fun b _ => .eorIndX b) (fun _ _ => rfl) rfl rfl (fun _ _ => rfl)

theorem EncodedForm.eorIndY (z : Byte) : EncodedForm.Statement (.eorIndY z) :=
  EncodedForm.of_row (fun b _ => .eorIndY b) (fun _ _ => rfl) rfl rfl (fun _ _ => rfl)

theorem EncodedForm.cmpImm (v : Byte) : EncodedForm.Statement (.cmpImm v) :=
  EncodedForm.of_row (fun b _ => .cmpImm b) (fun _ _ => rfl) rfl rfl (fun _ _ => rfl)

theorem EncodedForm.cmpZp (z : Byte) : EncodedForm.Statement (.cmpZp z) :=
  EncodedForm.of_row (fun b _ => .cmpZp b) (fun _ _ => rfl) rfl rfl (fun _ _ => rfl)

theorem EncodedForm.cmpZpX (z : Byte) : EncodedForm.Statement (.cmpZpX z) :=
  EncodedForm.of_row (fun b _ => .cmpZpX b) (fun _ _ => rfl) rfl rfl (fun _ _ => rfl)

theorem EncodedForm.cmpAbs (a : Word) : EncodedForm.Statement (.cmpAbs a) :=
  EncodedForm.of_row (fun l h => .cmpAbs (wordOf h l)) (fun _ _ => rfl) rfl rfl (fun _ _ => congrArg Instr.cmpAbs (wordOf_hi_lo a))

theorem EncodedForm.cmpAbsX (a : Word) : EncodedForm.Statement (.cmpAbsX a) :=
  EncodedForm.of_row (fun l h => .cmpAbsX (wordOf h l)) (fun _ _ => rfl) rfl rfl (fun _ _ => congrArg Instr.cmpAbsX (wordOf_hi_lo a))

theorem EncodedForm.cmpAbsY (a : Word) : EncodedForm.Statement (.cmpAbsY a) :=
  EncodedForm.of_row (fun l h => .cmpAbsY (wordOf h l)) (fun _ _ => rfl) rfl rfl (fun _ _ => congrArg Instr.cmpAbsY (wordOf_hi_lo a))

theorem EncodedForm.cmpIndX (z : Byte) : EncodedForm.Statement (.cmpIndX z) :=
  EncodedForm.of_row (fun b _ => .cmpIndX b) (fun _ _ => rfl) rfl rfl (fun _ _ => rfl)

theorem EncodedForm.cmpIndY (z : Byte) : EncodedForm.Statement (.cmpIndY z) :=
  EncodedForm.of_row (fun b _ => .cmpIndY b) (fun _ _ => rfl) rfl rfl (fun _ _ => rfl)

theorem EncodedForm.cpxImm (v : Byte) : EncodedForm.Statement (.cpxImm v) :=
  EncodedForm.of_row (fun b _ => .cpxImm b) (fun _ _ => rfl) rfl rfl (fun _ _ => rfl)

theorem EncodedForm.cpxZp (z : Byte) : EncodedForm.Statement (.cpxZp z) :=
  EncodedForm.of_row (fun b _ => .cpxZp b) (fun _ _ => rfl) rfl rfl (fun _ _ => rfl)

theorem EncodedForm.cpxAbs (a : Word) : EncodedForm.Statement (.cpxAbs a) :=
  EncodedForm.of_row (fun l h => .cpxAbs (wordOf h l)) (fun _ _ => rfl) rfl rfl (fun _ _ => congrArg Instr.cpxAbs (wordOf_hi_lo a))

theorem EncodedForm.cpyImm (v : Byte) : EncodedForm.Statement (.cpyImm v) :=
  EncodedForm.of_row (fun b _ => .cpyImm b) (fun _ _ => rfl) rfl rfl (fun _ _ => rfl)

theorem EncodedForm.cpyZp (z : Byte) : EncodedForm.Statement (.cpyZp z) :=
  EncodedForm.of_row (fun b _ => .cpyZp b) (fun _ _ => rfl) rfl rfl (fun _ _ => rfl)

theorem EncodedForm.cpyAbs (a : Word) : EncodedForm.Statement (.cpyAbs a) :=
  EncodedForm.of_row (fun l h => .cpyAbs (wordOf h l)) (fun _ _ => rfl) rfl rfl (fun _ _ => congrArg Instr.cpyAbs (wordOf_hi_lo a))

theorem EncodedForm.bitZp (z : Byte) : EncodedForm.Statement (.bitZp z) :=
  EncodedForm.of_row (fun b _ => .bitZp b) (fun _ _ => rfl) rfl rfl (fun _ _ => rfl)

theorem EncodedForm.bitAbs (a : Word) : EncodedForm.Statement (.bitAbs a) :=
  EncodedForm.of_row (fun l h => .bitAbs (wordOf h l)) (fun _ _ => rfl) rfl rfl (fun _ _ => congrArg Instr.bitAbs (wordOf_hi_lo a))

theorem EncodedForm.incZp (z : Byte) : EncodedForm.Statement (.incZp z) :=
  EncodedForm.of_row (fun b _ => .incZp b) (fun _ _ => rfl) rfl rfl (fun _ _ => rfl)

theorem EncodedForm.incZpX (z : Byte) : EncodedForm.Statement (.incZpX z) :=
  EncodedForm.of_row (fun b _ => .incZpX b) (fun _ _ => rfl) rfl rfl (fun _ _ => rfl)

theorem EncodedForm.incAbs (a : Word) : EncodedForm.Statement (.incAbs a) :=
  EncodedForm.of_row (fun l h => .incAbs (wordOf h l)) (fun _ _ => rfl) rfl rfl (fun _ _ => congrArg Instr.incAbs (wordOf_hi_lo a))

theorem EncodedForm.incAbsX (a : Word) : EncodedForm.Statement (.incAbsX a) :=
  EncodedForm.of_row (fun l h => .incAbsX (wordOf h l)) (fun _ _ => rfl) rfl rfl (fun _ _ => congrArg Instr.incAbsX (wordOf_hi_lo a))

theorem EncodedForm.decZp (z : Byte) : EncodedForm.Statement (.decZp z) :=
  EncodedForm.of_row (fun b _ => .decZp b) (fun _ _ => rfl) rfl rfl (fun _ _ => rfl)

theorem EncodedForm.decZpX (z : Byte) : EncodedForm.Statement (.decZpX z) :=
  EncodedForm.of_row (fun b _ => .decZpX b) (fun _ _ => rfl) rfl rfl (fun _ _ => rfl)

theorem EncodedForm.decAbs (a : Word) : EncodedForm.Statement (.decAbs a) :=
  EncodedForm.of_row (fun l h => .decAbs (wordOf h l)) (fun _ _ => rfl) rfl rfl (fun _ _ => congrArg Instr.decAbs (wordOf_hi_lo a))

theorem EncodedForm.decAbsX (a : Word) : EncodedForm.Statement (.decAbsX a) :=
  EncodedForm.of_row (fun l h => .decAbsX (wordOf h l)) (fun _ _ => rfl) rfl rfl (fun _ _ => congrArg Instr.decAbsX (wordOf_hi_lo a))

theorem EncodedForm.inx : EncodedForm.Statement .inx :=
  EncodedForm.of_row (fun _ _ => .inx) (fun _ _ => rfl) rfl rfl (fun _ _ => rfl)

theorem EncodedForm.iny : EncodedForm.Statement .iny :=
  EncodedForm.of_row (fun _ _ => .iny) (fun _ _ => rfl) rfl rfl (fun _ _ => rfl)

theorem EncodedForm.dex : EncodedForm.Statement .dex :=
  EncodedForm.of_row (fun _ _ => .dex) (fun _ _ => rfl) rfl rfl (fun _ _ => rfl)

theorem EncodedForm.dey : EncodedForm.Statement .dey :=
  EncodedForm.of_row (fun _ _ => .dey) (fun _ _ => rfl) rfl rfl (fun _ _ => rfl)

theorem EncodedForm.aslAcc : EncodedForm.Statement .aslAcc :=
  EncodedForm.of_row (fun _ _ => .aslAcc) (fun _ _ => rfl) rfl rfl (fun _ _ => rfl)

theorem EncodedForm.aslZp (z : Byte) : EncodedForm.Statement (.aslZp z) :=
  EncodedForm.of_row (fun b _ => .aslZp b) (fun _ _ => rfl) rfl rfl (fun _ _ => rfl)

theorem EncodedForm.aslZpX (z : Byte) : EncodedForm.Statement (.aslZpX z) :=
  EncodedForm.of_row (fun b _ => .aslZpX b) (fun _ _ => rfl) rfl rfl (fun _ _ => rfl)

theorem EncodedForm.aslAbs (a : Word) : EncodedForm.Statement (.aslAbs a) :=
  EncodedForm.of_row (fun l h => .aslAbs (wordOf h l)) (fun _ _ => rfl) rfl rfl (fun _ _ => congrArg Instr.aslAbs (wordOf_hi_lo a))

theorem EncodedForm.aslAbsX (a : Word) : EncodedForm.Statement (.aslAbsX a) :=
  EncodedForm.of_row (fun l h => .aslAbsX (wordOf h l)) (fun _ _ => rfl) rfl rfl (fun _ _ => congrArg Instr.aslAbsX (wordOf_hi_lo a))

theorem EncodedForm.lsrAcc : EncodedForm.Statement .lsrAcc :=
  EncodedForm.of_row (fun _ _ => .lsrAcc) (fun _ _ => rfl) rfl rfl (fun _ _ => rfl)

theorem EncodedForm.lsrZp (z : Byte) : EncodedForm.Statement (.lsrZp z) :=
  EncodedForm.of_row (fun b _ => .lsrZp b) (fun _ _ => rfl) rfl rfl (fun _ _ => rfl)

theorem EncodedForm.lsrZpX (z : Byte) : EncodedForm.Statement (.lsrZpX z) :=
  EncodedForm.of_row (fun b _ => .lsrZpX b) (fun _ _ => rfl) rfl rfl (fun _ _ => rfl)

theorem EncodedForm.lsrAbs (a : Word) : EncodedForm.Statement (.lsrAbs a) :=
  EncodedForm.of_row (fun l h => .lsrAbs (wordOf h l)) (fun _ _ => rfl) rfl rfl (fun _ _ => congrArg Instr.lsrAbs (wordOf_hi_lo a))

theorem EncodedForm.lsrAbsX (a : Word) : EncodedForm.Statement (.lsrAbsX a) :=
  EncodedForm.of_row (fun l h => .lsrAbsX (wordOf h l)) (fun _ _ => rfl) rfl rfl (fun _ _ => congrArg Instr.lsrAbsX (wordOf_hi_lo a))

theorem EncodedForm.rolAcc : EncodedForm.Statement .rolAcc :=
  EncodedForm.of_row (fun _ _ => .rolAcc) (fun _ _ => rfl) rfl rfl (fun _ _ => rfl)

theorem EncodedForm.rolZp (z : Byte) : EncodedForm.Statement (.rolZp z) :=
  EncodedForm.of_row (fun b _ => .rolZp b) (fun _ _ => rfl) rfl rfl (fun _ _ => rfl)

theorem EncodedForm.rolZpX (z : Byte) : EncodedForm.Statement (.rolZpX z) :=
  EncodedForm.of_row (fun b _ => .rolZpX b) (fun _ _ => rfl) rfl rfl (fun _ _ => rfl)

theorem EncodedForm.rolAbs (a : Word) : EncodedForm.Statement (.rolAbs a) :=
  EncodedForm.of_row (fun l h => .rolAbs (wordOf h l)) (fun _ _ => rfl) rfl rfl (fun _ _ => congrArg Instr.rolAbs (wordOf_hi_lo a))

theorem EncodedForm.rolAbsX (a : Word) : EncodedForm.Statement (.rolAbsX a) :=
  EncodedForm.of_row (fun l h => .rolAbsX (wordOf h l)) (fun _ _ => rfl) rfl rfl (fun _ _ => congrArg Instr.rolAbsX (wordOf_hi_lo a))

theorem EncodedForm.rorAcc : EncodedForm.Statement .rorAcc :=
  EncodedForm.of_row (fun _ _ => .rorAcc) (fun _ _ => rfl) rfl rfl (fun _ _ => rfl)

theorem EncodedForm.rorZp (z : Byte) : EncodedForm.Statement (.rorZp z) :=
  EncodedForm.of_row (fun b _ => .rorZp b) (fun _ _ => rfl) rfl rfl (fun _ _ => rfl)

theorem EncodedForm.rorZpX (z : Byte) : EncodedForm.Statement (.rorZpX z) :=
  EncodedForm.of_row (fun b _ => .rorZpX b) (fun _ _ => rfl) rfl rfl (fun _ _ => rfl)

theorem EncodedForm.rorAbs (a : Word) : EncodedForm.Statement (.rorAbs a) :=
  EncodedForm.of_row (fun l h => .rorAbs (wordOf h l)) (fun _ _ => rfl) rfl rfl (fun _ _ => congrArg Instr.rorAbs (wordOf_hi_lo a))

theorem EncodedForm.rorAbsX (a : Word) : EncodedForm.Statement (.rorAbsX a) :=
  EncodedForm.of_row (fun l h => .rorAbsX (wordOf h l)) (fun _ _ => rfl) rfl rfl (fun _ _ => congrArg Instr.rorAbsX (wordOf_hi_lo a))

theorem EncodedForm.bcc (d : Int) : EncodedForm.Statement (.bcc d) :=
  EncodedForm.of_row (fun b _ => .bcc b.toInt) (fun _ _ => rfl) rfl rfl (fun h _ => congrArg Instr.bcc (toInt_ofInt_rel h))

theorem EncodedForm.bcs (d : Int) : EncodedForm.Statement (.bcs d) :=
  EncodedForm.of_row (fun b _ => .bcs b.toInt) (fun _ _ => rfl) rfl rfl (fun h _ => congrArg Instr.bcs (toInt_ofInt_rel h))

theorem EncodedForm.beq (d : Int) : EncodedForm.Statement (.beq d) :=
  EncodedForm.of_row (fun b _ => .beq b.toInt) (fun _ _ => rfl) rfl rfl (fun h _ => congrArg Instr.beq (toInt_ofInt_rel h))

theorem EncodedForm.bmi (d : Int) : EncodedForm.Statement (.bmi d) :=
  EncodedForm.of_row (fun b _ => .bmi b.toInt) (fun _ _ => rfl) rfl rfl (fun h _ => congrArg Instr.bmi (toInt_ofInt_rel h))

theorem EncodedForm.bne (d : Int) : EncodedForm.Statement (.bne d) :=
  EncodedForm.of_row (fun b _ => .bne b.toInt) (fun _ _ => rfl) rfl rfl (fun h _ => congrArg Instr.bne (toInt_ofInt_rel h))

theorem EncodedForm.bpl (d : Int) : EncodedForm.Statement (.bpl d) :=
  EncodedForm.of_row (fun b _ => .bpl b.toInt) (fun _ _ => rfl) rfl rfl (fun h _ => congrArg Instr.bpl (toInt_ofInt_rel h))

theorem EncodedForm.bvc (d : Int) : EncodedForm.Statement (.bvc d) :=
  EncodedForm.of_row (fun b _ => .bvc b.toInt) (fun _ _ => rfl) rfl rfl (fun h _ => congrArg Instr.bvc (toInt_ofInt_rel h))

theorem EncodedForm.bvs (d : Int) : EncodedForm.Statement (.bvs d) :=
  EncodedForm.of_row (fun b _ => .bvs b.toInt) (fun _ _ => rfl) rfl rfl (fun h _ => congrArg Instr.bvs (toInt_ofInt_rel h))

theorem EncodedForm.jmpAbs (a : Word) : EncodedForm.Statement (.jmpAbs a) :=
  EncodedForm.of_row (fun l h => .jmpAbs (wordOf h l)) (fun _ _ => rfl) rfl rfl (fun _ _ => congrArg Instr.jmpAbs (wordOf_hi_lo a))

theorem EncodedForm.jmpInd (p : Word) : EncodedForm.Statement (.jmpInd p) :=
  EncodedForm.of_row (fun l h => .jmpInd (wordOf h l)) (fun _ _ => rfl) rfl rfl (fun _ _ => congrArg Instr.jmpInd (wordOf_hi_lo p))

theorem EncodedForm.jsr (lo : Byte) : EncodedForm.Statement (.jsr lo) :=
  EncodedForm.of_row (fun b _ => .jsr b) (fun _ _ => rfl) rfl rfl (fun _ _ => rfl)

theorem EncodedForm.rts : EncodedForm.Statement .rts :=
  EncodedForm.of_row (fun _ _ => .rts) (fun _ _ => rfl) rfl rfl (fun _ _ => rfl)

theorem EncodedForm.brk : EncodedForm.Statement .brk :=
  EncodedForm.of_row (fun _ _ => .brk) (fun _ _ => rfl) rfl rfl (fun _ _ => rfl)

theorem EncodedForm.rti : EncodedForm.Statement .rti :=
  EncodedForm.of_row (fun _ _ => .rti) (fun _ _ => rfl) rfl rfl (fun _ _ => rfl)

theorem EncodedForm.nop : EncodedForm.Statement .nop :=
  EncodedForm.of_row (fun _ _ => .nop) (fun _ _ => rfl) rfl rfl (fun _ _ => rfl)

theorem EncodedForm.clc : EncodedForm.Statement .clc :=
  EncodedForm.of_row (fun _ _ => .clc) (fun _ _ => rfl) rfl rfl (fun _ _ => rfl)

theorem EncodedForm.cld : EncodedForm.Statement .cld :=
  EncodedForm.of_row (fun _ _ => .cld) (fun _ _ => rfl) rfl rfl (fun _ _ => rfl)

theorem EncodedForm.cli : EncodedForm.Statement .cli :=
  EncodedForm.of_row (fun _ _ => .cli) (fun _ _ => rfl) rfl rfl (fun _ _ => rfl)

theorem EncodedForm.clv : EncodedForm.Statement .clv :=
  EncodedForm.of_row (fun _ _ => .clv) (fun _ _ => rfl) rfl rfl (fun _ _ => rfl)

theorem EncodedForm.sec : EncodedForm.Statement .sec :=
  EncodedForm.of_row (fun _ _ => .sec) (fun _ _ => rfl) rfl rfl (fun _ _ => rfl)

theorem EncodedForm.sed : EncodedForm.Statement .sed :=
  EncodedForm.of_row (fun _ _ => .sed) (fun _ _ => rfl) rfl rfl (fun _ _ => rfl)

theorem EncodedForm.sei : EncodedForm.Statement .sei :=
  EncodedForm.of_row (fun _ _ => .sei) (fun _ _ => rfl) rfl rfl (fun _ _ => rfl)

end Sys2Proof.Laws
end

