-- ==== Sys2Proof/Laws/Stack.lean ====
section
/-! SUPPORT. A byte stored is the byte read back, and where the stack's addresses lie (20_memory.md R75, R78). -/

namespace Sys2Proof.Machine

/-! ## Stored bytes -/

/-- In canonical stores a store sets its byte. -/
theorem System.byteAt_storeAt {y : System} (h : y.inv = true) (l : Loc) (v : Byte) : (y.storeAt l v).byteAt l = v := by
  have h' := (System.inv_iff y).1 h
  have hc := (Cart.wf_iff y.cart).1 h'.2.2.2.2.1
  obtain ⟨s, i⟩ := l
  cases s
  · simp [System.byteAt, System.storeAt, Memory.read_write_wf h'.2.2.2.1]
  · simp [System.byteAt, System.storeAt, Memory.read_write_wf hc.2.2]
  · simp [System.byteAt, System.storeAt, Memory.read_write_wf hc.2.1]

/-- A poke that reaches RAM leaves its byte there. -/
theorem System.poke_byteAt {y : System} (h : y.inv = true) {addr : Word} {l : Loc} (hl : y.pokeTarget addr = some l)
    (v : Byte) : (y.poke addr v).byteAt l = v := by
  have key : (y.putByte (busAddr addr) v).byteAt l = v := by
    unfold System.putByte
    cases hd : (y.pageAccess (busAddr addr)).directPoke with
    | some k =>
      have : l = { k with index := k.index + pageOffset (busAddr addr) } := by
        simpa [System.pokeTarget, hd, eq_comm] using hl
      subst this
      exact System.byteAt_storeAt h _ v
    | none =>
      cases hv : (y.pageAccess (busAddr addr)).device with
      | riot => simp [System.pokeTarget, hd, hv] at hl
      | tia => simp [System.pokeTarget, hd, hv] at hl
      | null => simp [System.pokeTarget, hd, hv] at hl
      | cart =>
        by_cases h12 : (busAddr addr).getLsbD 12 = true
        · have hw : y.writePortAt (busAddr addr) = some l := by simpa [System.pokeTarget, hd, hv, h12] using hl
          simp only [System.devicePoke, System.cartPoke_window h12, hw]
          exact System.byteAt_storeAt (System.inv_setCart h (Cart.hotspot_sameStores _ _) (Cart.hotspot_banksWf _
            (Cart.banksWf_of_wf ((System.inv_iff y).1 h).2.2.2.2.1))) l v
        · simp [System.pokeTarget, hd, hv] at hl
          exact absurd hl.1 h12
  exact ((System.feObserve_effect (busAddr addr) v ((y.putByte (busAddr addr) v).setDataBus v)).1 l).trans key

theorem State.write_byteAt {s : State} (h : s.inv = true) {addr : Word} {l : Loc} (hl : l ∈ s.writePlaces addr) (v : Byte) :
    (s.write addr v).sys.byteAt l = v :=
  System.poke_byteAt (y := s.sys.tick) h (by simpa [State.writePlaces] using hl) v

/-! ## The page table with RIOT, TIA and cartridge attached -/

/-- Outside the window and the trapped pages an address with bit 7 set is the RIOT's. -/
theorem System.pageAccess_riot {y : System} (h : y.devices = attachOrder) {a : BusAddr} (h12 : a.getLsbD 12 = false)
    (h7 : a.getLsbD 7 = true) :
    y.pageAccess a =
      if a.getLsbD 9 then { directPeek := none, directPoke := none, device := .riot }
      else
        { directPeek := some ⟨.riotRam, (pageStart a &&& 0x7F).toNat⟩
          directPoke := some ⟨.riotRam, (pageStart a &&& 0x7F).toNat⟩
          device := .riot } := by
  have trap : y.cart.variant.trapsPage (pageStart a) = false := by
    have hne : ∀ q : BusAddr, q.getLsbD 7 = false → (pageStart a == q) = false := by
      intro q hq
      rw [beq_eq_false_iff_ne]
      intro e
      rw [← e, pageStart_bit7, h7] at hq
      cases hq
    unfold CartVariant.trapsPage
    split <;> simp [hne]
  unfold System.pageAccess
  rw [h]
  simp only [attachOrder, List.foldl_cons, List.foldl_nil, System.installed, Cart.page, pageStart_bit12, h12, trap,
    riotPage, tiaPage, pageStart_bit7, pageStart_bit9, h7]
  cases a.getLsbD 9 <;> rfl

/-- A window address is the cartridge's. -/
theorem System.pageAccess_window {y : System} (h : y.devices = attachOrder) {a : BusAddr} (h12 : a.getLsbD 12 = true) :
    y.pageAccess a = y.cart.windowPage (windowOffset (pageStart a)) := by
  unfold System.pageAccess
  rw [h]
  simp [attachOrder, System.installed, Cart.page, pageStart_bit12, h12, riotPage, tiaPage]

/-- An address with bits 12 and 7 clear is the TIA's, unless the variant takes its page. -/
theorem System.pageAccess_tia {y : System} (h : y.devices = attachOrder) {a : BusAddr} (h12 : a.getLsbD 12 = false)
    (h7 : a.getLsbD 7 = false) :
    y.pageAccess a =
      { directPeek := none, directPoke := none,
        device := if y.cart.variant.trapsPage (pageStart a) then .cart else .tia } := by
  unfold System.pageAccess
  rw [h]
  simp only [attachOrder, List.foldl_cons, List.foldl_nil, System.installed, Cart.page, pageStart_bit12, h12, riotPage,
    tiaPage, pageStart_bit7, h7]
  cases y.cart.variant.trapsPage (pageStart a) <;> rfl

/-! ## The stack -/

theorem stackAddr_bits (p : Byte) : (busAddr (stackAddr p)).getLsbD 7 = p.getLsbD 7
    ∧ (busAddr (stackAddr p)).getLsbD 9 = false ∧ (busAddr (stackAddr p) &&& 0x7F).toNat = p.toNat % 128 := by
  revert p
  decide

/-- The stack's upper half is RIOT RAM; its lower half reaches no RAM (20_memory.md R75). -/
theorem System.pokeTarget_stack {y : System} (h : y.devices = attachOrder) (p : Byte) :
    y.pokeTarget (stackAddr p) = if p.getLsbD 7 then some ⟨.riotRam, p.toNat % 128⟩ else none := by
  obtain ⟨h7, h9, hr⟩ := stackAddr_bits p
  have h12 := busAddr_stackAddr p
  unfold System.pokeTarget
  simp only
  cases hp : p.getLsbD 7
  · rw [hp] at h7
    simp only [System.pageAccess_tia h h12 h7, h12]
    cases y.cart.variant.trapsPage (pageStart (busAddr (stackAddr p))) <;> rfl
  · rw [hp] at h7
    simp only [System.pageAccess_riot h h12 h7, h9, Bool.false_eq_true, if_false, if_true, ramIndex_toNat, hr]

/-- Different stack addresses name different bytes. -/
theorem System.stackPlaces_disjoint {y z : System} (h : y.devices = attachOrder) (hz : z.devices = attachOrder) {p q : Byte}
    (hpq : p ≠ q) {l : Loc} (hl : y.pokeTarget (stackAddr p) = some l) : l ∉ (z.pokeTarget (stackAddr q)).toList := by
  rw [System.pokeTarget_stack h] at hl
  rw [System.pokeTarget_stack hz]
  cases hp : p.getLsbD 7 <;> rw [hp] at hl
  · cases hl
  · cases hl
    cases hq : q.getLsbD 7
    · simp
    · simp only [if_true, Option.toList_some, List.mem_singleton, Loc.mk.injEq, true_and]
      intro e
      apply hpq
      apply BitVec.eq_of_toNat_eq
      have hp' : 128 ≤ p.toNat := by
        rw [← BitVec.msb_eq_getLsbD_last, BitVec.msb_eq_decide] at hp
        simpa using hp
      have hq' : 128 ≤ q.toNat := by
        rw [← BitVec.msb_eq_getLsbD_last, BitVec.msb_eq_decide] at hq
        simpa using hq
      have := p.isLt
      have := q.isLt
      omega

/-! ## Registers through reads of words and traps -/

/-- A read does not look at the flags. -/
theorem State.read_setFlags (f : Flags) (p : Word) (s : State) :
    (s.setFlags f).read p = ((s.read p).1, (s.read p).2.setFlags f) := rfl

theorem State.write_setFlags (f : Flags) (p : Word) (v : Byte) (s : State) :
    (s.setFlags f).write p v = (s.write p v).setFlags f := rfl

theorem State.push_setFlags (f : Flags) (v : Byte) (s : State) : (s.setFlags f).push v = (s.push v).setFlags f := by
  unfold State.push
  rw [State.write_setFlags]
  rfl

theorem State.read16_setFlags (f : Flags) (p : Word) (s : State) :
    (s.setFlags f).read16 p = ((s.read16 p).1, (s.read16 p).2.setFlags f) := by
  unfold State.read16
  simp only [State.read_setFlags]

@[simp] theorem State.read16_a (p : Word) (s : State) : (s.read16 p).2.a = s.a := by simp only [State.read16, State.read_a]
@[simp] theorem State.read16_x (p : Word) (s : State) : (s.read16 p).2.x = s.x := by simp only [State.read16, State.read_x]
@[simp] theorem State.read16_y (p : Word) (s : State) : (s.read16 p).2.y = s.y := by simp only [State.read16, State.read_y]
@[simp] theorem State.read16_sp (p : Word) (s : State) : (s.read16 p).2.sp = s.sp := by
  simp only [State.read16, State.read_sp]
@[simp] theorem State.read16_ir (p : Word) (s : State) : (s.read16 p).2.ir = s.ir := by
  simp only [State.read16, State.read_ir]
@[simp] theorem State.read16_flags (p : Word) (s : State) : (s.read16 p).2.flags = s.flags := by
  simp only [State.read16, State.read_flags]
@[simp] theorem State.read16_count (p : Word) (s : State) : (s.read16 p).2.instructionCount = s.instructionCount := by
  simp only [State.read16, State.read_count]
@[simp] theorem State.read16_last (p : Word) (s : State) : (s.read16 p).2.lastAccessWasRead = true := by
  simp only [State.read16, State.read_last]

/-- What taking a trap does to the registers. -/
theorem State.trap_state (s : State) (ret : Word) (b : Bool) (vec : Word) :
    s.trap ret b vec =
      { s with
        sp := s.sp - 3
        flags := { s.flags with b := b, i := true }
        pc := (((s.pushWord ret).push ({ s.flags with b := b } : Flags).toByte).read16 vec).1
        lastAccessWasRead := true
        sys := (((s.pushWord ret).push ({ s.flags with b := b } : Flags).toByte).read16 vec).2.sys } := by
  have e3 : s.sp - 2#8 - 1#8 = s.sp - 3#8 := by rw [BitVec.sub_sub]; rfl
  refine State.of_fields ?_ ?_ ?_ ?_ ?_ ?_ ?_ ?_ ?_ ?_ <;> simp [State.trap, State.push_setFlags, State.read16_setFlags, e3]

/-! ## Bytes of the stack -/

/-- Where the stack's addresses store is a matter of steady fields. -/
theorem State.writePlaces_stack {s t : State} (h : s.sys.Steady t.sys) (p : Byte) :
    t.writePlaces (stackAddr p) = s.writePlaces (stackAddr p) :=
  congrArg Option.toList (System.pokeTarget_low h (busAddr_stackAddr p))

/-- The only byte a read disturbs is one of on-cart RAM. -/
theorem System.peekTarget_store {y : System} {addr : Word} {l : Loc} (h : y.peekTarget addr = some l) :
    l.store = .cartRam := by
  unfold System.peekTarget at h
  simp only at h
  split at h
  · cases h
  · split at h
    · exact (System.writePortAt_some h).1
    · cases h
  · cases h

/-- A read leaves the stack's bytes alone. -/
theorem State.read_byteAt_stack {s t : State} (hs : s.sys.devices = attachOrder) {p : Byte} {l : Loc}
    (hl : l ∈ s.writePlaces (stackAddr p)) (addr : Word) : (t.read addr).2.sys.byteAt l = t.sys.byteAt l := by
  refine (t.read_run addr).bytes l fun h => ?_
  have h1 := System.peekTarget_store (Option.mem_toList.1 h)
  have h2 : s.sys.pokeTarget (stackAddr p) = some l := Option.mem_toList.1 hl
  rw [System.pokeTarget_stack hs] at h2
  split at h2
  · cases h2; cases h1
  · cases h2

/-- A push leaves its byte at its address. -/
theorem State.push_byteAt {s : State} (h : s.inv = true) {l : Loc} (hl : l ∈ s.writePlaces (stackAddr s.sp)) (v : Byte) :
    (s.push v).sys.byteAt l = v := State.write_byteAt h hl v

/-- A push leaves the byte at another stack address. -/
theorem State.push_byteAt_other {s t : State} (hs : s.sys.devices = attachOrder) (ht : t.sys.devices = attachOrder) {p : Byte}
    (hp : p ≠ t.sp) {l : Loc} (hl : l ∈ s.writePlaces (stackAddr p)) (v : Byte) :
    (t.push v).sys.byteAt l = t.sys.byteAt l :=
  (t.write_run (stackAddr t.sp) v).bytes l
    (System.stackPlaces_disjoint hs ht hp (by simpa [State.writePlaces] using hl))

/-- Two pushes leave both bytes. -/
theorem State.pushWord_byteAt {s : State} (h : s.inv = true) (w : Word) :
    (∀ l ∈ s.writePlaces (stackAddr s.sp), (s.pushWord w).sys.byteAt l = hiByte w)
      ∧ ∀ l ∈ s.writePlaces (stackAddr (s.sp - 1)), (s.pushWord w).sys.byteAt l = loByte w := by
  have hr := s.push_run (hiByte w)
  have hd : s.sys.devices = attachOrder := ((System.inv_iff s.sys).1 h).2.2.1
  have hne : s.sp ≠ s.sp - 1#8 := by
    intro e
    have := congrArg BitVec.toNat e
    have := s.sp.isLt
    simp at *
    omega
  refine ⟨fun l hl => ?_, fun l hl => ?_⟩
  · exact (State.push_byteAt_other hd (hr.steady.devices.trans hd) hne hl (loByte w)).trans (State.push_byteAt h hl _)
  · refine State.push_byteAt (hr.inv h) ?_ _
    rw [State.push_sp, State.writePlaces_stack hr.steady]
    exact hl

end Sys2Proof.Machine
end

