-- ==== Sys2Proof/Tests/Slice0.lean ====
section
/-! SUPPORT. Tests. Expected results come from spec/: the encodings of its rules and of 30_encoding.md R154, the vectors of
95_test_vectors.md (cited by id), or the rule cited. `witness_…` theorems show that the hypotheses of the obligation named
can be met, each clause at a boundary of its range. -/

namespace Sys2Proof.Tests

open Sys2Proof.Machine

/-! ## Helpers -/

/-- What the decoder reads, as an option. -/
def dec (bytes : List Byte) : Option (Instr × List Byte) := (decode bytes).toOption

/-- The vectors' machine: a 4K cartridge with `code` at $F000 and `rom` at higher offsets, RIOT RAM `ram`, a quiet video
collaborator. -/
def machine (code : List Byte) (rom ram : Memory) : State :=
  { State.reset with
    pc := 0xF000
    sys := { State.reset.sys with
      cfg := { tiaVideo := .quiet }
      cart := { Cart.blank4K with rom := Memory.ofBytes 0 code ++ rom }
      riot := { State.reset.sys.riot with ram := ram } } }

/-- The state one step leaves. -/
def after (s : State) : State :=
  match step s with
  | .next t => t
  | .fault _ => s
  | .refused _ => s

/-- The quiet machine's system with another cartridge. -/
def withCart (v : CartVariant) (size : Nat) (rom : Memory) : System :=
  (machine [] [] []).sys.setCart
    ({ Cart.blank4K with variant := v, romSize := size, rom := rom : Cart }.reset {})

/-! ## WellFormed refuses what no encoding expresses (30_encoding.md R152, R157) -/

theorem test_wf_refuses_displacement_high : (Instr.bcc 128).wf = false ∧ (Instr.bcs 128).wf = false
    ∧ (Instr.beq 128).wf = false ∧ (Instr.bmi 128).wf = false ∧ (Instr.bne 128).wf = false ∧ (Instr.bpl 128).wf = false
    ∧ (Instr.bvc 128).wf = false ∧ (Instr.bvs 128).wf = false := by decide

theorem test_wf_refuses_displacement_low : (Instr.bcc (-129)).wf = false ∧ (Instr.bcs (-129)).wf = false
    ∧ (Instr.beq (-129)).wf = false ∧ (Instr.bmi (-129)).wf = false ∧ (Instr.bne (-129)).wf = false
    ∧ (Instr.bpl (-129)).wf = false ∧ (Instr.bvc (-129)).wf = false ∧ (Instr.bvs (-129)).wf = false := by decide

/-! ## Decoding: words written out from the encodings -/

/-- 30_encoding.md R155; R141: a truncated operand. -/
theorem test_decode_rejects : dec [0x02, 0, 0] = none ∧ dec [0xFF] = none ∧ dec [0x80, 1] = none ∧ dec [0xA9] = none
    ∧ dec [0xAD, 0x34] = none ∧ dec [] = none := by decide

/-- The encoding table of 40_load_store_transfer.md R200. -/
theorem test_decode_lda :
    dec [0xA9, 0x34] = some (.ldaImm 0x34, [])
    ∧ dec [0xA5, 0x34] = some (.ldaZp 0x34, [])
    ∧ dec [0xB5, 0x34] = some (.ldaZpX 0x34, [])
    ∧ dec [0xAD, 0x34, 0x12] = some (.ldaAbs 0x1234, [])
    ∧ dec [0xBD, 0x34, 0x12] = some (.ldaAbsX 0x1234, [])
    ∧ dec [0xB9, 0x34, 0x12] = some (.ldaAbsY 0x1234, [])
    ∧ dec [0xA1, 0x34] = some (.ldaIndX 0x34, [])
    ∧ dec [0xB1, 0x34] = some (.ldaIndY 0x34, []) := by decide

/-- The encoding table of 40_load_store_transfer.md R201. -/
theorem test_decode_ldx :
    dec [0xA2, 0x34] = some (.ldxImm 0x34, [])
    ∧ dec [0xA6, 0x34] = some (.ldxZp 0x34, [])
    ∧ dec [0xB6, 0x34] = some (.ldxZpY 0x34, [])
    ∧ dec [0xAE, 0x34, 0x12] = some (.ldxAbs 0x1234, [])
    ∧ dec [0xBE, 0x34, 0x12] = some (.ldxAbsY 0x1234, []) := by decide

/-- The encoding table of 40_load_store_transfer.md R202. -/
theorem test_decode_ldy :
    dec [0xA0, 0x34] = some (.ldyImm 0x34, [])
    ∧ dec [0xA4, 0x34] = some (.ldyZp 0x34, [])
    ∧ dec [0xB4, 0x34] = some (.ldyZpX 0x34, [])
    ∧ dec [0xAC, 0x34, 0x12] = some (.ldyAbs 0x1234, [])
    ∧ dec [0xBC, 0x34, 0x12] = some (.ldyAbsX 0x1234, []) := by decide

/-- The encoding table of 40_load_store_transfer.md R203. -/
theorem test_decode_sta :
    dec [0x85, 0x34] = some (.staZp 0x34, [])
    ∧ dec [0x95, 0x34] = some (.staZpX 0x34, [])
    ∧ dec [0x8D, 0x34, 0x12] = some (.staAbs 0x1234, [])
    ∧ dec [0x9D, 0x34, 0x12] = some (.staAbsX 0x1234, [])
    ∧ dec [0x99, 0x34, 0x12] = some (.staAbsY 0x1234, [])
    ∧ dec [0x81, 0x34] = some (.staIndX 0x34, [])
    ∧ dec [0x91, 0x34] = some (.staIndY 0x34, []) := by decide

/-- The encoding table of 40_load_store_transfer.md R204. -/
theorem test_decode_stx :
    dec [0x86, 0x34] = some (.stxZp 0x34, [])
    ∧ dec [0x96, 0x34] = some (.stxZpY 0x34, [])
    ∧ dec [0x8E, 0x34, 0x12] = some (.stxAbs 0x1234, []) := by decide

/-- The encoding table of 40_load_store_transfer.md R205. -/
theorem test_decode_sty :
    dec [0x84, 0x34] = some (.styZp 0x34, [])
    ∧ dec [0x94, 0x34] = some (.styZpX 0x34, [])
    ∧ dec [0x8C, 0x34, 0x12] = some (.styAbs 0x1234, []) := by decide

/-- 40_load_store_transfer.md R206 to R215. -/
theorem test_decode_transfers_and_stack :
    dec [0xAA] = some (.tax, [])
    ∧ dec [0xA8] = some (.tay, [])
    ∧ dec [0x8A] = some (.txa, [])
    ∧ dec [0x98] = some (.tya, [])
    ∧ dec [0xBA] = some (.tsx, [])
    ∧ dec [0x9A] = some (.txs, [])
    ∧ dec [0x48] = some (.pha, [])
    ∧ dec [0x08] = some (.php, [])
    ∧ dec [0x68] = some (.pla, [])
    ∧ dec [0x28] = some (.plp, []) := by decide

/-- The encoding table of 41_arith_logic_shift.md R230. -/
theorem test_decode_adc :
    dec [0x69, 0x34] = some (.adcImm 0x34, [])
    ∧ dec [0x65, 0x34] = some (.adcZp 0x34, [])
    ∧ dec [0x75, 0x34] = some (.adcZpX 0x34, [])
    ∧ dec [0x6D, 0x34, 0x12] = some (.adcAbs 0x1234, [])
    ∧ dec [0x7D, 0x34, 0x12] = some (.adcAbsX 0x1234, [])
    ∧ dec [0x79, 0x34, 0x12] = some (.adcAbsY 0x1234, [])
    ∧ dec [0x61, 0x34] = some (.adcIndX 0x34, [])
    ∧ dec [0x71, 0x34] = some (.adcIndY 0x34, []) := by decide

/-- The encoding table of 41_arith_logic_shift.md R231. -/
theorem test_decode_sbc :
    dec [0xE9, 0x34] = some (.sbcImm 0x34, [])
    ∧ dec [0xE5, 0x34] = some (.sbcZp 0x34, [])
    ∧ dec [0xF5, 0x34] = some (.sbcZpX 0x34, [])
    ∧ dec [0xED, 0x34, 0x12] = some (.sbcAbs 0x1234, [])
    ∧ dec [0xFD, 0x34, 0x12] = some (.sbcAbsX 0x1234, [])
    ∧ dec [0xF9, 0x34, 0x12] = some (.sbcAbsY 0x1234, [])
    ∧ dec [0xE1, 0x34] = some (.sbcIndX 0x34, [])
    ∧ dec [0xF1, 0x34] = some (.sbcIndY 0x34, []) := by decide

/-- The encoding table of 41_arith_logic_shift.md R232. -/
theorem test_decode_and :
    dec [0x29, 0x34] = some (.andImm 0x34, [])
    ∧ dec [0x25, 0x34] = some (.andZp 0x34, [])
    ∧ dec [0x35, 0x34] = some (.andZpX 0x34, [])
    ∧ dec [0x2D, 0x34, 0x12] = some (.andAbs 0x1234, [])
    ∧ dec [0x3D, 0x34, 0x12] = some (.andAbsX 0x1234, [])
    ∧ dec [0x39, 0x34, 0x12] = some (.andAbsY 0x1234, [])
    ∧ dec [0x21, 0x34] = some (.andIndX 0x34, [])
    ∧ dec [0x31, 0x34] = some (.andIndY 0x34, []) := by decide

/-- The encoding table of 41_arith_logic_shift.md R233. -/
theorem test_decode_ora :
    dec [0x09, 0x34] = some (.oraImm 0x34, [])
    ∧ dec [0x05, 0x34] = some (.oraZp 0x34, [])
    ∧ dec [0x15, 0x34] = some (.oraZpX 0x34, [])
    ∧ dec [0x0D, 0x34, 0x12] = some (.oraAbs 0x1234, [])
    ∧ dec [0x1D, 0x34, 0x12] = some (.oraAbsX 0x1234, [])
    ∧ dec [0x19, 0x34, 0x12] = some (.oraAbsY 0x1234, [])
    ∧ dec [0x01, 0x34] = some (.oraIndX 0x34, [])
    ∧ dec [0x11, 0x34] = some (.oraIndY 0x34, []) := by decide

/-- The encoding table of 41_arith_logic_shift.md R234. -/
theorem test_decode_eor :
    dec [0x49, 0x34] = some (.eorImm 0x34, [])
    ∧ dec [0x45, 0x34] = some (.eorZp 0x34, [])
    ∧ dec [0x55, 0x34] = some (.eorZpX 0x34, [])
    ∧ dec [0x4D, 0x34, 0x12] = some (.eorAbs 0x1234, [])
    ∧ dec [0x5D, 0x34, 0x12] = some (.eorAbsX 0x1234, [])
    ∧ dec [0x59, 0x34, 0x12] = some (.eorAbsY 0x1234, [])
    ∧ dec [0x41, 0x34] = some (.eorIndX 0x34, [])
    ∧ dec [0x51, 0x34] = some (.eorIndY 0x34, []) := by decide

/-- The encoding table of 41_arith_logic_shift.md R235. -/
theorem test_decode_cmp :
    dec [0xC9, 0x34] = some (.cmpImm 0x34, [])
    ∧ dec [0xC5, 0x34] = some (.cmpZp 0x34, [])
    ∧ dec [0xD5, 0x34] = some (.cmpZpX 0x34, [])
    ∧ dec [0xCD, 0x34, 0x12] = some (.cmpAbs 0x1234, [])
    ∧ dec [0xDD, 0x34, 0x12] = some (.cmpAbsX 0x1234, [])
    ∧ dec [0xD9, 0x34, 0x12] = some (.cmpAbsY 0x1234, [])
    ∧ dec [0xC1, 0x34] = some (.cmpIndX 0x34, [])
    ∧ dec [0xD1, 0x34] = some (.cmpIndY 0x34, []) := by decide

/-- The encoding table of 41_arith_logic_shift.md R236. -/
theorem test_decode_cpx :
    dec [0xE0, 0x34] = some (.cpxImm 0x34, [])
    ∧ dec [0xE4, 0x34] = some (.cpxZp 0x34, [])
    ∧ dec [0xEC, 0x34, 0x12] = some (.cpxAbs 0x1234, []) := by decide

/-- The encoding table of 41_arith_logic_shift.md R237. -/
theorem test_decode_cpy :
    dec [0xC0, 0x34] = some (.cpyImm 0x34, [])
    ∧ dec [0xC4, 0x34] = some (.cpyZp 0x34, [])
    ∧ dec [0xCC, 0x34, 0x12] = some (.cpyAbs 0x1234, []) := by decide

/-- The encoding table of 41_arith_logic_shift.md R238. -/
theorem test_decode_bit :
    dec [0x24, 0x34] = some (.bitZp 0x34, [])
    ∧ dec [0x2C, 0x34, 0x12] = some (.bitAbs 0x1234, []) := by decide

/-- The encoding table of 41_arith_logic_shift.md R239. -/
theorem test_decode_inc :
    dec [0xE6, 0x34] = some (.incZp 0x34, [])
    ∧ dec [0xF6, 0x34] = some (.incZpX 0x34, [])
    ∧ dec [0xEE, 0x34, 0x12] = some (.incAbs 0x1234, [])
    ∧ dec [0xFE, 0x34, 0x12] = some (.incAbsX 0x1234, []) := by decide

/-- The encoding table of 41_arith_logic_shift.md R240. -/
theorem test_decode_dec :
    dec [0xC6, 0x34] = some (.decZp 0x34, [])
    ∧ dec [0xD6, 0x34] = some (.decZpX 0x34, [])
    ∧ dec [0xCE, 0x34, 0x12] = some (.decAbs 0x1234, [])
    ∧ dec [0xDE, 0x34, 0x12] = some (.decAbsX 0x1234, []) := by decide

/-- 41_arith_logic_shift.md R241 to R244. -/
theorem test_decode_register_steps :
    dec [0xE8] = some (.inx, [])
    ∧ dec [0xC8] = some (.iny, [])
    ∧ dec [0xCA] = some (.dex, [])
    ∧ dec [0x88] = some (.dey, []) := by decide

/-- The encoding table of 41_arith_logic_shift.md R245. -/
theorem test_decode_asl :
    dec [0x0A] = some (.aslAcc, [])
    ∧ dec [0x06, 0x34] = some (.aslZp 0x34, [])
    ∧ dec [0x16, 0x34] = some (.aslZpX 0x34, [])
    ∧ dec [0x0E, 0x34, 0x12] = some (.aslAbs 0x1234, [])
    ∧ dec [0x1E, 0x34, 0x12] = some (.aslAbsX 0x1234, []) := by decide

/-- The encoding table of 41_arith_logic_shift.md R246. -/
theorem test_decode_lsr :
    dec [0x4A] = some (.lsrAcc, [])
    ∧ dec [0x46, 0x34] = some (.lsrZp 0x34, [])
    ∧ dec [0x56, 0x34] = some (.lsrZpX 0x34, [])
    ∧ dec [0x4E, 0x34, 0x12] = some (.lsrAbs 0x1234, [])
    ∧ dec [0x5E, 0x34, 0x12] = some (.lsrAbsX 0x1234, []) := by decide

/-- The encoding table of 41_arith_logic_shift.md R247. -/
theorem test_decode_rol :
    dec [0x2A] = some (.rolAcc, [])
    ∧ dec [0x26, 0x34] = some (.rolZp 0x34, [])
    ∧ dec [0x36, 0x34] = some (.rolZpX 0x34, [])
    ∧ dec [0x2E, 0x34, 0x12] = some (.rolAbs 0x1234, [])
    ∧ dec [0x3E, 0x34, 0x12] = some (.rolAbsX 0x1234, []) := by decide

/-- The encoding table of 41_arith_logic_shift.md R248. -/
theorem test_decode_ror :
    dec [0x6A] = some (.rorAcc, [])
    ∧ dec [0x66, 0x34] = some (.rorZp 0x34, [])
    ∧ dec [0x76, 0x34] = some (.rorZpX 0x34, [])
    ∧ dec [0x6E, 0x34, 0x12] = some (.rorAbs 0x1234, [])
    ∧ dec [0x7E, 0x34, 0x12] = some (.rorAbsX 0x1234, []) := by decide

/-- 42_control_flags.md R260 to R267; 0x85 is -123. -/
theorem test_decode_branches :
    dec [0x90, 0x85] = some (.bcc (-123), [])
    ∧ dec [0xB0, 0x85] = some (.bcs (-123), [])
    ∧ dec [0xF0, 0x85] = some (.beq (-123), [])
    ∧ dec [0x30, 0x85] = some (.bmi (-123), [])
    ∧ dec [0xD0, 0x85] = some (.bne (-123), [])
    ∧ dec [0x10, 0x85] = some (.bpl (-123), [])
    ∧ dec [0x50, 0x85] = some (.bvc (-123), [])
    ∧ dec [0x70, 0x85] = some (.bvs (-123), []) := by decide

/-- 42_control_flags.md R268 to R272. -/
theorem test_decode_jumps_and_returns :
    dec [0x4C, 0x34, 0x12] = some (.jmpAbs 0x1234, [])
    ∧ dec [0x6C, 0x34, 0x12] = some (.jmpInd 0x1234, [])
    ∧ dec [0x20, 0x34, 0x12] = some (.jsr 0x34, [0x12])
    ∧ dec [0x60] = some (.rts, [])
    ∧ dec [0x00] = some (.brk, [])
    ∧ dec [0x40] = some (.rti, []) := by decide

/-- 42_control_flags.md R273 to R280. -/
theorem test_decode_nop_and_flags :
    dec [0xEA] = some (.nop, [])
    ∧ dec [0x18] = some (.clc, [])
    ∧ dec [0xD8] = some (.cld, [])
    ∧ dec [0x58] = some (.cli, [])
    ∧ dec [0xB8] = some (.clv, [])
    ∧ dec [0x38] = some (.sec, [])
    ∧ dec [0xF8] = some (.sed, [])
    ∧ dec [0x78] = some (.sei, []) := by decide

/-! ## Single steps: the vectors of 95_test_vectors.md -/

/-- V-L1. -/
theorem test_step_lda_imm : let t := after ({ machine [0xA9, 0x00] [] [] with a := 0x55, flags := { n := true, v := false, b := false, d := false, i := false, z := false, c := false } })
    t.a = 0x00 ∧ t.flags.z = true ∧ t.flags.n = false ∧ t.sys.cycles = 2 := by decide

/-- V-L4. -/
theorem test_step_lda_zpX_wraps : let t := after ({ machine [0xB5, 0x90] [] [(0, 0x37)] with x := 0xF0 })
    t.a = 0x37 ∧ t.sys.cycles = 4 := by decide

/-- V-L6. -/
theorem test_step_lda_absX_crosses : let t := after ({ machine [0xBD, 0xF0, 0xF0] [(272, 0x9C)] [] with x := 0x20 })
    t.a = 0x9C ∧ t.flags.n = true ∧ t.sys.cycles = 5 := by decide

/-- V-L8. -/
theorem test_step_lda_indY_crosses : let t := after ({ machine [0xB1, 0x80] [] [(0, 0xFF), (1, 0xF0)] with a := 0x11, y := 0x01 })
    t.a = 0x00 ∧ t.flags.z = true ∧ t.sys.cycles = 6 := by decide

/-- V-L9. -/
theorem test_step_lda_indX : let t := after ({ machine [0xA1, 0x7F] [(512, 0x11)] [(2, 0xF2)] with x := 0x02 })
    t.a = 0x11 ∧ t.sys.cycles = 6 := by decide

/-- V-L5. -/
theorem test_step_ldx_zpY : let t := after ({ machine [0xB6, 0xFF] [] [(0, 0xC3)] with y := 0x81 })
    t.x = 0xC3 ∧ t.flags.n = true ∧ t.sys.cycles = 4 := by decide

/-- R202; the values of V-L3. -/
theorem test_step_ldy_zp : let t := after (machine [0xA4, 0x80] [] [(0, 0x37)])
    t.y = 0x37 ∧ t.flags.n = false ∧ t.flags.z = false ∧ t.sys.cycles = 3 := by decide

/-- V-L11. -/
theorem test_step_sta_zpX : let t := after ({ machine [0x95, 0x90] [] [] with a := 0x5A, x := 0xF5 })
    t.sys.riot.ram.read 5 = 0x5A ∧ t.flags = State.reset.flags ∧ t.sys.cycles = 4 := by decide

/-- V-L12. -/
theorem test_step_sta_absY : let t := after ({ machine [0x99, 0x80, 0x00] [] [] with a := 0x5A, y := 0x05 })
    t.sys.riot.ram.read 5 = 0x5A ∧ t.sys.cycles = 5 := by decide

/-- V-L13. -/
theorem test_step_sta_rom : let t := after ({ machine [0x8D, 0x00, 0xF0] [] [] with a := 0x5A })
    t.sys.cart.rom.read 0 = 0x8D ∧ t.sys.dataBus = 0x5A ∧ t.sys.cycles = 4 := by decide

/-- V-L14. -/
theorem test_step_stx_zp : let t := after ({ machine [0x86, 0x80] [] [] with x := 0x12 })
    t.sys.riot.ram.read 0 = 0x12 ∧ t.sys.cycles = 3 := by decide

/-- V-L14. -/
theorem test_step_sty_zp : let t := after ({ machine [0x84, 0x81] [] [] with y := 0x34 })
    t.sys.riot.ram.read 1 = 0x34 ∧ t.sys.cycles = 3 := by decide

/-- V-L15. -/
theorem test_step_tax : let t := after ({ machine [0xAA] [] [] with x := 0x33 })
    t.x = 0x00 ∧ t.flags.z = true ∧ t.flags.n = false ∧ t.sys.cycles = 2 := by decide

/-- V-L16. -/
theorem test_step_tay : let t := after ({ machine [0xA8] [] [] with a := 0xF0 })
    t.y = 0xF0 ∧ t.flags.n = true ∧ t.sys.cycles = 2 := by decide

/-- V-L16. -/
theorem test_step_tya : let t := after ({ machine [0x98] [] [] with y := 0xF0 })
    t.a = 0xF0 ∧ t.flags.n = true ∧ t.sys.cycles = 2 := by decide

/-- V-L17. -/
theorem test_step_txa : let t := after ({ machine [0x8A] [] [] with x := 0x7F })
    t.a = 0x7F ∧ t.flags.n = false ∧ t.flags.z = false ∧ t.sys.cycles = 2 := by decide

/-- V-L18. -/
theorem test_step_tsx : let t := after (machine [0xBA] [] [])
    t.x = 0xFD ∧ t.flags.n = true ∧ t.flags.z = false ∧ t.sys.cycles = 2 := by decide

/-- V-L19. -/
theorem test_step_txs : let t := after ({ machine [0x9A] [] [] with flags := { n := true, v := false, b := false, d := false, i := false, z := false, c := false } })
    t.sp = 0x00 ∧ t.flags.n = true ∧ t.flags.z = false ∧ t.sys.cycles = 2 := by decide

/-- V-L20. -/
theorem test_step_pha : let t := after ({ machine [0x48] [] [] with a := 0x5A })
    t.sys.riot.ram.read 125 = 0x5A ∧ t.sp = 0xFC ∧ t.sys.cycles = 3 := by decide

/-- V-L21. -/
theorem test_step_php : let t := after ({ machine [0x08] [] [] with flags := { n := true, v := false, b := false, d := false, i := true, z := false, c := true } })
    t.sys.riot.ram.read 125 = 0xB5 ∧ t.sp = 0xFC ∧ t.flags.b = false ∧ t.sys.cycles = 3 := by decide

/-- V-L23. -/
theorem test_step_pla : let t := after ({ machine [0x68] [] [] with a := 0x11, sp := 0xFC })
    t.a = 0x00 ∧ t.flags.z = true ∧ t.sp = 0xFD ∧ t.sys.cycles = 4 := by decide

/-- V-L24. -/
theorem test_step_plp : let t := after ({ machine [0x28] [] [(125, 0xFF)] with sp := 0xFC })
    t.flags = { n := true, v := true, b := true, d := true, i := true, z := true, c := true } ∧ t.sp = 0xFD ∧ t.sys.cycles = 4 := by decide

/-- V-L26. -/
theorem test_step_pha_wraps : let t := after ({ machine [0x48] [] [] with sp := 0x00 })
    t.sp = 0xFF := by decide

/-- V-A1. -/
theorem test_step_adc_overflow : let t := after ({ machine [0x69, 0x01] [] [] with a := 0x7F, flags := { n := false, v := false, b := false, d := false, i := false, z := false, c := false } })
    t.a = 0x80 ∧ t.flags.n = true ∧ t.flags.v = true ∧ t.flags.z = false ∧ t.flags.c = false ∧ t.sys.cycles = 2 := by decide

/-- V-A3. -/
theorem test_step_adc_wraps_signed : let t := after ({ machine [0x69, 0x80] [] [] with a := 0x80, flags := { n := false, v := false, b := false, d := false, i := false, z := false, c := false } })
    t.a = 0x00 ∧ t.flags.n = false ∧ t.flags.v = true ∧ t.flags.z = true ∧ t.flags.c = true ∧ t.sys.cycles = 2 := by decide

/-- V-A7. -/
theorem test_step_sbc_borrow : let t := after ({ machine [0xE9, 0x01] [] [] with a := 0x00, flags := { n := false, v := false, b := false, d := false, i := false, z := false, c := true } })
    t.a = 0xFF ∧ t.flags.n = true ∧ t.flags.v = false ∧ t.flags.z = false ∧ t.flags.c = false ∧ t.sys.cycles = 2 := by decide

/-- V-A9. -/
theorem test_step_sbc_overflow : let t := after ({ machine [0xE9, 0xB0] [] [] with a := 0x50, flags := { n := false, v := false, b := false, d := false, i := false, z := false, c := true } })
    t.a = 0xA0 ∧ t.flags.n = true ∧ t.flags.v = true ∧ t.flags.z = false ∧ t.flags.c = false ∧ t.sys.cycles = 2 := by decide

/-- V-A14. -/
theorem test_step_adc_decimal : let t := after ({ machine [0x69, 0x46] [] [] with a := 0x58, flags := { n := false, v := false, b := false, d := true, i := false, z := false, c := true } })
    t.a = 0x05 ∧ t.flags.c = true := by decide

/-- V-A15. -/
theorem test_step_adc_decimal_nonBCD : let t := after ({ machine [0x69, 0x01] [] [] with a := 0x0F, flags := { n := false, v := false, b := false, d := true, i := false, z := false, c := false } })
    t.a = 0x16 ∧ t.flags.c = false := by decide

/-- V-A17. -/
theorem test_step_sbc_decimal : let t := after ({ machine [0xE9, 0x01] [] [] with flags := { n := false, v := false, b := false, d := true, i := false, z := false, c := true } })
    t.a = 0x99 ∧ t.flags.c = false := by decide

/-- V-A19. -/
theorem test_step_sbc_decimal_borrow_in : let t := after ({ machine [0xE9, 0x13] [] [] with a := 0x40, flags := { n := false, v := false, b := false, d := true, i := false, z := false, c := false } })
    t.a = 0x26 ∧ t.flags.c = true := by decide

/-- V-G1. -/
theorem test_step_and_imm : let t := after ({ machine [0x29, 0x0F] [] [] with a := 0xF0 })
    t.a = 0x00 ∧ t.flags.z = true ∧ t.flags.n = false ∧ t.sys.cycles = 2 := by decide

/-- V-G2. -/
theorem test_step_ora_imm : let t := after ({ machine [0x09, 0x80] [] [] with a := 0x01 })
    t.a = 0x81 ∧ t.flags.z = false ∧ t.flags.n = true ∧ t.sys.cycles = 2 := by decide

/-- V-G4. -/
theorem test_step_eor_imm : let t := after ({ machine [0x49, 0xFF] [] [] with a := 0x0F })
    t.a = 0xF0 ∧ t.flags.n = true ∧ t.sys.cycles = 2 := by decide

/-- V-G5. -/
theorem test_step_cmp_imm : let t := after ({ machine [0xC9, 0x41] [] [] with a := 0x40 })
    t.a = 0x40 ∧ t.flags.c = false ∧ t.flags.z = false ∧ t.flags.n = true ∧ t.sys.cycles = 2 := by decide

/-- V-G10. -/
theorem test_step_cmp_decimal : let t := after ({ machine [0xC9, 0x40] [] [] with a := 0x40, flags := { n := false, v := false, b := false, d := true, i := false, z := false, c := false } })
    t.flags.c = true ∧ t.flags.z = true ∧ t.sys.cycles = 2 := by decide

/-- V-G8. -/
theorem test_step_cpx_imm : let t := after (machine [0xE0, 0xFF] [] [])
    t.flags.c = false ∧ t.flags.z = false ∧ t.flags.n = false ∧ t.sys.cycles = 2 := by decide

/-- V-G9. -/
theorem test_step_cpy_zp : let t := after ({ machine [0xC4, 0x80] [] [(0, 0x0F)] with y := 0x10 })
    t.flags.c = true ∧ t.flags.z = false ∧ t.flags.n = false ∧ t.sys.cycles = 3 := by decide

/-- V-G11. -/
theorem test_step_bit_zp : let t := after (machine [0x24, 0x80] [] [(0, 0xC0)])
    t.a = 0x00 ∧ t.flags.n = true ∧ t.flags.v = true ∧ t.flags.z = true ∧ t.sys.cycles = 3 := by decide

/-- V-G13, the byte at offset $010. -/
theorem test_step_bit_abs : let t := after ({ machine [0x2C, 0x10, 0xF0] [(16, 0x3F)] [] with a := 0xFF })
    t.flags.n = false ∧ t.flags.v = false ∧ t.flags.z = false ∧ t.sys.cycles = 4 := by decide

/-- V-S1. -/
theorem test_step_inc_zp : let t := after (machine [0xE6, 0x80] [] [(0, 0xFF)])
    t.sys.riot.ram.read 0 = 0x00 ∧ t.flags.z = true ∧ t.flags.n = false ∧ t.sys.cycles = 5 := by decide

/-- V-S3, the byte at offset $010. -/
theorem test_step_inc_rom : let t := after (machine [0xFE, 0x10, 0xF0] [(16, 0x10)] [])
    t.sys.cart.rom.read 0x10 = 0x10 ∧ t.flags.z = false ∧ t.flags.n = false ∧ t.sys.cycles = 7 := by decide

/-- V-S2. -/
theorem test_step_dec_zp : let t := after (machine [0xC6, 0x80] [] [])
    t.sys.riot.ram.read 0 = 0xFF ∧ t.flags.n = true ∧ t.sys.cycles = 5 := by decide

/-- V-S4. -/
theorem test_step_inx : let t := after ({ machine [0xE8] [] [] with x := 0xFF })
    t.x = 0x00 ∧ t.flags.z = true ∧ t.sys.cycles = 2 := by decide

/-- V-S5. -/
theorem test_step_iny : let t := after ({ machine [0xC8] [] [] with y := 0x7F })
    t.y = 0x80 ∧ t.flags.n = true ∧ t.sys.cycles = 2 := by decide

/-- V-S6. -/
theorem test_step_dex : let t := after ({ machine [0xCA] [] [] with x := 0x01 })
    t.x = 0x00 ∧ t.flags.z = true ∧ t.sys.cycles = 2 := by decide

/-- V-S7. -/
theorem test_step_dey : let t := after (machine [0x88] [] [])
    t.y = 0xFF ∧ t.flags.n = true ∧ t.sys.cycles = 2 := by decide

/-- V-S8. -/
theorem test_step_asl_acc : let t := after ({ machine [0x0A] [] [] with a := 0x80 })
    t.a = 0x00 ∧ t.flags.c = true ∧ t.flags.z = true ∧ t.flags.n = false ∧ t.sys.cycles = 2 := by decide

/-- V-S9. -/
theorem test_step_asl_zp : let t := after ({ machine [0x06, 0x80] [] [(0, 0x40)] with flags := { n := false, v := false, b := false, d := false, i := false, z := false, c := true } })
    t.sys.riot.ram.read 0 = 0x80 ∧ t.flags.c = false ∧ t.flags.n = true ∧ t.sys.cycles = 5 := by decide

/-- V-S10. -/
theorem test_step_lsr_acc : let t := after ({ machine [0x4A] [] [] with a := 0x01 })
    t.a = 0x00 ∧ t.flags.c = true ∧ t.flags.z = true ∧ t.flags.n = false ∧ t.sys.cycles = 2 := by decide

/-- V-S12. -/
theorem test_step_rol_acc : let t := after ({ machine [0x2A] [] [] with a := 0x80, flags := { n := false, v := false, b := false, d := false, i := false, z := false, c := true } })
    t.a = 0x01 ∧ t.flags.c = true ∧ t.flags.z = false ∧ t.sys.cycles = 2 := by decide

/-- V-S14. -/
theorem test_step_ror_acc : let t := after ({ machine [0x6A] [] [] with a := 0x01, flags := { n := false, v := false, b := false, d := false, i := false, z := false, c := true } })
    t.a = 0x80 ∧ t.flags.c = true ∧ t.flags.n = true ∧ t.sys.cycles = 2 := by decide

/-- V-S15. -/
theorem test_step_ror_zpX : let t := after ({ machine [0x76, 0x80] [] [(1, 0x02)] with x := 0x01 })
    t.sys.riot.ram.read 1 = 0x01 ∧ t.flags.c = false ∧ t.sys.cycles = 6 := by decide

/-- V-S16. -/
theorem test_step_ror_absX : let t := after ({ machine [0x7E, 0x80, 0x00] [] [] with flags := { n := false, v := false, b := false, d := false, i := false, z := false, c := true } })
    t.sys.riot.ram.read 0 = 0x80 ∧ t.flags.c = false ∧ t.flags.n = true ∧ t.sys.cycles = 7 := by decide

/-- V-C1. -/
theorem test_step_beq_self : let t := after ({ machine [0xF0, 0xFE] [] [] with flags := { n := false, v := false, b := false, d := false, i := false, z := true, c := false } })
    t.pc = 0xF000 ∧ t.sys.cycles = 3 := by decide

/-- V-C2. -/
theorem test_step_bcc_taken : let t := after (machine [0x90, 0x00] [] [])
    t.pc = 0xF002 ∧ t.sys.cycles = 3 := by decide

/-- V-C3. -/
theorem test_step_bcs_not_taken : let t := after (machine [0xB0, 0x10] [] [])
    t.pc = 0xF002 ∧ t.sys.cycles = 2 := by decide

/-- S2. -/
theorem test_step_bne_crosses_back : let t := after (machine [0xD0, 0xFB] [] [])
    t.pc = 0xEFFD ∧ t.sys.cycles = 4 := by decide

/-- R263; the displacement of V-C4 from $F000. -/
theorem test_step_bmi_back : let t := after ({ machine [0x30, 0x80] [] [] with flags := { n := true, v := false, b := false, d := false, i := false, z := false, c := false } })
    t.pc = 0xEF82 ∧ t.sys.cycles = 4 := by decide

/-- V-C5. -/
theorem test_step_bpl : let t := after (machine [0x10, 0x7F] [] [])
    t.pc = 0xF081 ∧ t.sys.cycles = 3 := by decide

/-- V-C6. -/
theorem test_step_bvc_crosses : let t := after (machine [0x50, 0xFB] [] [])
    t.pc = 0xEFFD ∧ t.sys.cycles = 4 := by decide

/-- V-C7. -/
theorem test_step_bvs : let t := after ({ machine [0x70, 0x02] [] [] with flags := { n := false, v := true, b := false, d := false, i := false, z := false, c := false } })
    t.pc = 0xF004 ∧ t.sys.cycles = 3 := by decide

/-- V-C8. -/
theorem test_step_jmp_abs : let t := after (machine [0x4C, 0x23, 0xF1] [] [])
    t.pc = 0xF123 ∧ t.sys.cycles = 3 := by decide

/-- V-C9, one page up. -/
theorem test_step_jmp_ind_same_page : let t := after (machine [0x6C, 0xFF, 0xF1] [(256, 0xF2), (511, 0x34), (512, 0x99)] [])
    t.pc = 0xF234 ∧ t.sys.cycles = 5 := by decide

/-- V-C10. -/
theorem test_step_jsr : let t := after ({ machine [0x20, 0x23, 0xF1] [] [] with sp := 0xFF })
    t.sys.riot.ram.read 127 = 0xF0 ∧ t.sys.riot.ram.read 126 = 0x02 ∧ t.sp = 0xFD ∧ t.pc = 0xF123 ∧ t.sys.cycles = 6 := by decide

/-- V-C11. -/
theorem test_step_rts : let t := after (machine [0x60] [] [(126, 0x02), (127, 0xF0)])
    t.pc = 0xF003 ∧ t.sp = 0xFF ∧ t.sys.cycles = 6 := by decide

/-- V-C12. -/
theorem test_step_rts_wraps : let t := after (machine [0x60] [] [(126, 0xFF), (127, 0xFF)])
    t.pc = 0x0000 ∧ t.sp = 0xFF ∧ t.sys.cycles = 6 := by decide

/-- V-C13. -/
theorem test_step_brk : let t := after ({ machine [0x00, 0xEA] [(4095, 0xF8)] [] with sp := 0xFF, flags := { n := false, v := false, b := false, d := false, i := false, z := false, c := false } })
    t.sys.riot.ram.read 127 = 0xF0 ∧ t.sys.riot.ram.read 126 = 0x02 ∧ t.sys.riot.ram.read 125 = 0x30 ∧ t.sp = 0xFC ∧ t.flags.b = true ∧ t.flags.i = true ∧ t.flags.d = false ∧ t.pc = 0xF800 ∧ t.sys.cycles = 7 := by decide

/-- V-C14. -/
theorem test_step_rti : let t := after ({ machine [0x40] [] [(125, 0x30), (126, 0x02), (127, 0xF0)] with sp := 0xFC, flags := { n := false, v := false, b := false, d := false, i := true, z := false, c := false } })
    t.pc = 0xF002 ∧ t.sp = 0xFF ∧ t.flags.b = true ∧ t.flags.i = false ∧ t.sys.cycles = 6 := by decide

/-- V-C15. -/
theorem test_step_nop : let t := after (machine [0xEA] [] [])
    t.pc = 0xF001 ∧ t.instructionCount = 1 ∧ t.sys.cycles = 2 := by decide

/-- V-C16. -/
theorem test_step_clc : let t := after ({ machine [0x18] [] [] with flags := { n := false, v := false, b := false, d := false, i := false, z := false, c := true } })
    t.flags.c = false ∧ t.sys.cycles = 2 := by decide

/-- V-C16. -/
theorem test_step_sec : let t := after (machine [0x38] [] [])
    t.flags.c = true ∧ t.sys.cycles = 2 := by decide

/-- V-C17. -/
theorem test_step_cld : let t := after ({ machine [0xD8] [] [] with flags := { n := false, v := false, b := false, d := true, i := false, z := false, c := false } })
    t.flags.d = false ∧ t.sys.cycles = 2 := by decide

/-- V-C17. -/
theorem test_step_sed : let t := after (machine [0xF8] [] [])
    t.flags.d = true ∧ t.sys.cycles = 2 := by decide

/-- V-C18. -/
theorem test_step_cli : let t := after (machine [0x58] [] [])
    t.flags.i = false ∧ t.sys.cycles = 2 := by decide

/-- V-C18. -/
theorem test_step_sei : let t := after ({ machine [0x78] [] [] with flags := { n := false, v := false, b := false, d := false, i := false, z := false, c := false } })
    t.flags.i = true ∧ t.sys.cycles = 2 := by decide

/-- V-C19. -/
theorem test_step_clv : let t := after ({ machine [0xB8] [] [] with flags := { n := false, v := true, b := false, d := false, i := false, z := false, c := false } })
    t.flags.v = false ∧ t.sys.cycles = 2 := by decide

/-- V-X1. -/
theorem test_step_illegal : let t := after (machine [0x02] [] [])
    t.sys.status.fatal = true ∧ t.ir = 0x02 ∧ t.instructionCount = 0 ∧ t.pc = 0xF000 ∧ t.sys.cycles = 1 := by decide

/-! ## Bus, RIOT, cartridges, audio, interrupts -/

/-- V-B1, S7a. -/
theorem test_stack_mirror : let y := (machine [] [] []).sys.poke 0x0180 0x77
    y.riot.ram.read 0 = 0x77 ∧ (y.peek 0x0080).1 = 0x77 ∧ (y.peek 0x2080).1 = 0x77 := by decide

/-- V-B2. -/
theorem test_bus_mask : ((machine [] [(0x80, 0x5A)] []).sys.peek 0x3080).1 = 0x5A := by decide

/-- V-B4, V-B5: register $15, through its mirror $55. -/
theorem test_tia_mirror : ((machine [] [] []).sys.poke 0x0055 0x04).audio.queue.map (fun e => (e.addr, e.value)) = [(0x15, 0x04)] := by
  decide

/-- The INTIM byte at cycle `t` of a timer written at cycle `t0`. -/
def intimAfter (addr : Word) (n : Byte) (t0 t : U32) : Byte :=
  (((((machine [] [] []).sys.setCycles t0).poke addr n).setCycles t).peek 0x0284).1

/-- V-R1. -/
theorem test_timer_64 : [100, 163, 164, 227, 228, 229].map (intimAfter 0x0296 2 100) = [1, 1, 0, 0, 0xFF, 0xFE] := by decide

/-- V-R4, V-R5. -/
theorem test_timer_1024_and_zero : [1023, 1024, 1025].map (intimAfter 0x0297 1 0) = [0, 0xFF, 0xFE]
    ∧ [0, 1, 255, 256].map (intimAfter 0x0294 0 0) = [0xFF, 0xFE, 0x00, 0xFF] := by decide

/-- V-K2, V-K4: the hotspot before the byte; the lock. -/
theorem test_f8_hotspot : let y := withCart .f8 8192 [(0xFF8, 0x11), (0x1FF8, 0x22)]
    y.cart.currentBank = 1 ∧ (y.peek 0x1FF8).1 = 0x11 ∧ (y.peek 0x1FF8).2.cart.currentBank = 0
      ∧ ((y.setCart { y.cart with bankLocked := true }).peek 0x1FF8).1 = 0x22 := by decide

/-- V-K5, V-K6. -/
theorem test_f6_f4_hotspots : ((withCart .f6 16384 []).peek 0x1FF9).2.cart.currentBank = 3
    ∧ ((withCart .f4 32768 []).peek 0x1FFB).2.cart.currentBank = 7 := by decide

/-- V-K7: the write port, then the read port. -/
theorem test_superchip : (((withCart .f8sc 8192 []).poke 0x1005 0x42).peek 0x1085).1 = 0x42 := by decide

/-- V-K9, V-K10, V-K11. -/
theorem test_3f : let y := withCart .c3F 8192 [(0x1800, 0x33)]
    (y.poke 0x003F 0x06).cart.currentBank = 2 ∧ (y.poke 0x0040 0x01).cart.currentBank = 0
      ∧ ((y.poke 0x003F 0x06).peek 0x1800).1 = 0x33 := by decide

/-- V-K12. -/
theorem test_3e : let y := (withCart .c3E 8192 []).poke 0x003E 0x21
    y.cart.ramBank = 1 ∧ y.cart.ramSelected = true ∧ y.cart.cell 0 = .ramRead 1024 := by decide

/-- V-K13, V-K14. -/
theorem test_e0 : let y := withCart .e0 8192 []
    let z := (((y.peek 0x1FE3).2.peek 0x1FEA).2.peek 0x1FF1).2
    (List.range 4).map y.cart.slotBank = [4, 5, 6, 7] ∧ (List.range 4).map z.cart.slotBank = [3, 2, 1, 7] := by decide

/-- V-K15, V-K16. -/
theorem test_e7 : let y := withCart .e7 16384 []
    (((y.peek 0x1FE7).2.poke 0x1000 0xAA).peek 0x1400).1 = 0xAA
      ∧ (((y.peek 0x1FE9).2.poke 0x1800 0xBB).peek 0x1900).1 = 0xBB := by decide

/-- V-K17, V-K18, V-K19. -/
theorem test_ua_cv : ((withCart .ua 8192 []).peek 0x0240).2.cart.currentBank = 1
    ∧ (((withCart .ua 8192 []).peek 0x0240).2.poke 0x0220 0).cart.currentBank = 0
    ∧ (((withCart .cv 2048 []).poke 0x1010 0x33).peek 0x1410).1 = 0x33 := by decide

/-- V-K20: JSR $D000 in bank 0 with SP = $FF selects bank 1. -/
theorem test_fe_jsr : let s := { machine [] [] [] with
      pc := 0xF100, sp := 0xFF, sys := withCart .fe 8192 [(0x100, 0x20), (0x102, 0xD0)] }
    (after s).sys.cart.currentBank = 1 ∧ (after s).pc = 0xD000 := by decide

/-- V-T1, V-T2, V-T3, V-T4: the divider's period. -/
theorem test_divider : dividerPeriod 4 0x1F = 32 ∧ dividerPeriod 0xC 0x1F = 96 ∧ dividerPeriod 0xF 0x1F = 32
    ∧ dividerPeriod 0 0x1F = 0 ∧ dividerPeriod 11 3 = 0 := by decide

/-- V-T5, V-T6: register masks. -/
theorem test_synth_masks : (Channel.reset.setReg .audf 0xFF).audf = 0x1F ∧ (Channel.reset.setReg .audv 0x3C).audv = 0x0C := by
  decide

/-- V-T10, V-T11. -/
theorem test_mix : mixStandard 15 15 100 true = 255 ∧ mixStandard 15 15 100 false = 224 ∧ mixStandard 15 0 50 true = 120 := by
  decide

/-- V-T9: the drain leaves two of four entries. -/
theorem test_drain : let e : QueueEntry := { addr := 0x15, value := 4, delta := ⟨2 ^ 52, -56⟩ }
    (({ State.reset.sys.audio with queue := [e, e, e, e] }).drain {}).queue = [e, e] := by decide

/-- S5: 314 samples before a write 0.01 s into the fragment. -/
theorem test_fragment_samples : segmentSamples F64.zero (F64.mul (F64.ofNat 31440) (F64.ofRatio false 1 100 0)) 1024 = 314 := by
  decide

/-- V-X5: the IRQ entry, then one instruction of the handler. -/
theorem test_irq_entry : let s := { machine [] [(0x800, 0xEA), (0xFFF, 0xF8)] [] with
      pc := 0xF010, sp := 0xFF, flags := { n := true, v := false, b := true, d := false, i := false, z := false, c := false } }
    let t := after s.irq
    t.sys.riot.ram.read 0x7F = 0xF0 ∧ t.sys.riot.ram.read 0x7E = 0x10 ∧ t.sys.riot.ram.read 0x7D = 0xA0 ∧ t.sp = 0xFC
      ∧ t.flags.i = true ∧ t.flags.b = false ∧ t.sys.status.irq = false ∧ t.pc = 0xF801 ∧ t.sys.cycles = 9
      ∧ t.instructionCount = 1 := by decide

/-- V-X6, V-X7: NMI first, whatever I is; the IRQ stays pending. -/
theorem test_nmi_first : let t := after (machine [] [(0x900, 0xEA), (0xFFB, 0xF9)] []).irq.nmi
    t.pc = 0xF901 ∧ t.sys.status.nmi = false ∧ t.sys.status.irq = true := by decide

/-- V-X4: I masks a pending IRQ. -/
theorem test_irq_masked : let t := after (machine [0xEA] [] []).irq
    t.pc = 0xF001 ∧ t.sys.status.irq = true := by decide

/-- V-X2, V-X3: FatalError halts until a reset. -/
theorem test_fatal_sticky : step (after (machine [0x02] [] [])) = .fault .fatalErrorHalt
    ∧ (after (machine [0x02] [] [])).systemReset.sys.status.fatal = false := ⟨by rfl, by decide⟩

/-- R82, 93 U23: JSR with SP = $16 writes AUDC1, then AUDC0; a callback scheduled after one write runs between them. It plays
two silent samples, consumes the first write and starves (R360, R363); the second write is then alone in the queue. -/
theorem test_callback_between_writes : let t := after { machine [0x20, 0x23, 0xF1] [] [] with sp := 0x16 }
    let u := after (({ machine [0x20, 0x23, 0xF1] [] [] with sp := 0x16 } : State).requestCallback 1 2)
    t.sys.audio.queue.map (fun e => e.addr) = [0x16, 0x15] ∧ t.sys.audio.fragments = []
      ∧ u.sys.audio.queue.map (fun e => e.addr) = [0x15] ∧ u.sys.audio.fragments = [[0, 0]] ∧ u.sys.audio.requests = [] := by
  decide

/-- R406: `bank_locked` starts at 0 whatever the cartridge given. -/
theorem test_powerUp_unlocked :
    (State.powerUp { tiaVideo := .quiet } { Cart.blank4K with bankLocked := true }).sys.cart.bankLocked = false := by decide

/-- What the host asks: the placed word is decoded and run first. -/
theorem test_withFetchWord : decodeTableWord 16 0x80A9 = some (.ldaImm 0x80)
    ∧ (after (State.reset.withFetchWord 16 0x80A9)).a = 0x80 := by decide

/-! ## Witnesses -/

/-- A machine about to run `code`. -/
abbrev at' (code : List Byte) : State := machine code [] []

theorem witness_DecodeEncodeRoundTrip : (Instr.beq (-128)).wf = true ∧ (Instr.bne 127).wf = true ∧ (Instr.jmpInd 0xFFFF).wf = true := by
  decide

theorem witness_DecodedBytesReencode : decode [0x6C, 0xFF, 0xF0, 0xEA] = .ok (.jmpInd 0xF0FF, [0xEA]) := rfl

theorem witness_StepRunsDecodedInstruction : (at' [0xA9, 0x80]).running = true ∧ (at' [0xA9, 0x80]).noInterrupt = true
    ∧ (at' [0xA9, 0x80]).irq.noInterrupt = true
    ∧ decode (at' [0xA9, 0x80]).clearStop.fetchInstruction.1 = .ok (.ldaImm 0x80, []) := ⟨by decide, by decide, by decide, rfl⟩

theorem witness_IllegalOpcodeRaisesFatal : (at' [0x02]).running = true ∧ (at' [0x02]).noInterrupt = true
    ∧ legalOpcode ((at' [0x02]).clearStop.read (at' [0x02]).pc).1 = false ∧ (at' [0x02]).sys.dataBusLocked = false := by decide

theorem witness_FatalErrorIsStickyAndOnlyStop : (after (at' [0x02])).sys.status.fatal = true ∧ (at' [0x02]).running = true
    ∧ HostCall.apply .stop (after (at' [0x02])) = .next (after (at' [0x02])).stop
    ∧ HostCall.apply .reset (after (at' [0x02])) = .next (after (at' [0x02])).systemReset := ⟨by decide, by decide, rfl, rfl⟩

theorem witness_ExecuteFollowsSteps : (at' [0xEA]).running = true ∧ step (at' [0xEA]) = .next (after (at' [0xEA])) :=
  ⟨by decide, rfl⟩

theorem witness_InterruptService : (at' [0xEA]).nmi.running = true ∧ (at' [0xEA]).nmi.sys.status.nmi = true
    ∧ (let s := { at' [0xEA] with flags := { (at' [0xEA]).flags with i := false } }
      s.irq.running = true ∧ s.irq.sys.status.nmi = false ∧ s.irq.sys.status.irq = true ∧ s.irq.flags.i = false)
    ∧ (at' [0xEA]).irq.noInterrupt = true := by decide

theorem witness_InterruptService_step : step (at' [0xEA]).irq = .next (after (at' [0xEA]).irq) := rfl

/-- Where the pushes land with SP = $FF, and with SP = $82, whose third push is the lowest RAM byte; one below reaches none. -/
theorem witness_TrapEntry : (at' []).inv = true ∧ (at' []).sys.cfg.tiaVideo = .quiet
    ∧ (let s := { at' [] with sp := 0xFF }
      s.writePlaces (stackAddr s.sp) = [⟨.riotRam, 127⟩] ∧ s.writePlaces (stackAddr (s.sp - 1)) = [⟨.riotRam, 126⟩]
        ∧ s.writePlaces (stackAddr (s.sp - 2)) = [⟨.riotRam, 125⟩])
    ∧ (let s := { at' [] with sp := 0x82 }
      s.writePlaces (stackAddr (s.sp - 2)) = [⟨.riotRam, 0⟩] ∧ s.writePlaces (stackAddr (s.sp - 3)) = []) := by decide

theorem witness_StepKeepsInvariant : (at' [0x00]).inv = true ∧ step (at' [0x00]) = .next (after (at' [0x00])) := ⟨by decide, rfl⟩

theorem witness_StepKeepsHostSide : step (at' [0xEA]).irq = .next (after (at' [0xEA]).irq)
    ∧ (after (at' [0xEA]).irq).sys.status.irq = true ∧ (at' [0xEA]).irq.sys.audio.requests = [] := ⟨rfl, by decide, rfl⟩

set_option maxRecDepth 16000 in
theorem witness_HostCallsKeepInvariant : (at' []).inv = true ∧ HostCall.apply (.bank 7) (at' []) = .next ((at' []).bank 7)
    ∧ ((at' []).load (at' []).save).isSome = true := ⟨by decide, rfl, by decide⟩

theorem witness_CycleAccounting : (at' [0xEA]).sys.cfg.tiaVideo = .quiet ∧ step (at' [0xEA]) = .next (after (at' [0xEA])) :=
  ⟨rfl, rfl⟩

theorem witness_LoadInstructions : (Instr.ldaImm 0).operand = .src (.imm 0) ∧ (Instr.ldaImm 0).mnemonic = .LDA
    ∧ (Instr.ldxZpY 0xFF).operand = .src (.mem (.zpY 0xFF)) ∧ (Instr.ldxZpY 0xFF).mnemonic = .LDX
    ∧ (Instr.ldyAbsX 0xFFFF).operand = .src (.mem (.absX 0xFFFF)) ∧ (Instr.ldyAbsX 0xFFFF).mnemonic = .LDY := by decide

theorem witness_StoreInstructions : (Instr.staIndY 0xFF).operand = .src (.mem (.indY 0xFF)) ∧ (Instr.staIndY 0xFF).mnemonic = .STA
    ∧ (Instr.stxZpY 0xFF).operand = .src (.mem (.zpY 0xFF)) ∧ (Instr.stxZpY 0xFF).mnemonic = .STX
    ∧ (Instr.styZp 0x80).operand = .src (.mem (.zp 0x80)) ∧ (Instr.styZp 0x80).mnemonic = .STY
    ∧ (at' []).inv = true ∧ (at' []).storePlaces (.zp 0x80) = [⟨.riotRam, 0⟩]
    ∧ (at' []).storePlaces (.abs 0x01FF) = [⟨.riotRam, 127⟩] := by decide

theorem witness_PushInstructions : (at' []).inv = true ∧ (at' []).writePlaces (stackAddr (at' []).sp) = [⟨.riotRam, 125⟩]
    ∧ (at' []).writePlaces (stackAddr 0x00) = [] := by decide

theorem witness_BinaryArithmetic : (Instr.adcImm 1).operand = .src (.imm 1) ∧ (Instr.adcImm 1).mnemonic = .ADC
    ∧ (Instr.sbcIndX 0x80).operand = .src (.mem (.indX 0x80)) ∧ (Instr.sbcIndX 0x80).mnemonic = .SBC
    ∧ (at' []).flags.d = false := by decide

theorem witness_DecimalArithmetic : (Instr.adcImm 1).operand = .src (.imm 1) ∧ (Instr.sbcAbsY 0x80).operand = .src (.mem (.absY 0x80))
    ∧ (Instr.sbcAbsY 0x80).mnemonic = .SBC
    ∧ ({ at' [] with flags := { (at' []).flags with d := true } }).flags.d = true := by decide

theorem witness_DecimalResultsOnDigits : (0x99 : Byte).toNat % 16 ≤ 9 ∧ (0x99 : Byte).toNat / 16 ≤ 9
    ∧ (0x00 : Byte).toNat % 16 ≤ 9 ∧ (0x00 : Byte).toNat / 16 ≤ 9 := by decide

theorem witness_LogicInstructions : (Instr.andZp 0).operand = .src (.mem (.zp 0)) ∧ (Instr.andZp 0).mnemonic = .AND
    ∧ (Instr.oraImm 0x80).operand = .src (.imm 0x80) ∧ (Instr.oraImm 0x80).mnemonic = .ORA
    ∧ (Instr.eorAbsX 1).operand = .src (.mem (.absX 1)) ∧ (Instr.eorAbsX 1).mnemonic = .EOR := by decide

theorem witness_CompareInstructions : (Instr.cmpImm 0).operand = .src (.imm 0) ∧ (Instr.cmpImm 0).mnemonic = .CMP
    ∧ (Instr.cpxZp 0).operand = .src (.mem (.zp 0)) ∧ (Instr.cpxZp 0).mnemonic = .CPX
    ∧ (Instr.cpyAbs 0).operand = .src (.mem (.abs 0)) ∧ (Instr.cpyAbs 0).mnemonic = .CPY := by decide

theorem witness_BitInstruction : (Instr.bitZp 0xFF).operand = .src (.mem (.zp 0xFF)) ∧ (Instr.bitZp 0xFF).mnemonic = .BIT
    ∧ (Instr.bitAbs 0xF000).operand = .src (.mem (.abs 0xF000)) ∧ (Instr.bitAbs 0xF000).mnemonic = .BIT := by decide

theorem witness_IncDecMemory : (Instr.incZp 0xFF).operand = .src (.mem (.zp 0xFF)) ∧ (Instr.incZp 0xFF).mnemonic = .INC
    ∧ (Instr.decAbsX 0x80).operand = .src (.mem (.absX 0x80)) ∧ (Instr.decAbsX 0x80).mnemonic = .DEC
    ∧ (at' []).inv = true ∧ (at' []).modifyPlaces (.zp 0xFF) = [⟨.riotRam, 127⟩] := by decide

theorem witness_MemoryShifts : (Instr.aslZp 0x80).operand = .src (.mem (.zp 0x80)) ∧ (Instr.aslZp 0x80).mnemonic = .ASL
    ∧ (Instr.lsrAbs 0x80).mnemonic = .LSR ∧ (Instr.rolZpX 0x80).mnemonic = .ROL ∧ (Instr.rorAbsX 0x80).mnemonic = .ROR
    ∧ (at' []).inv = true ∧ (at' []).modifyPlaces (.zp 0x80) = [⟨.riotRam, 0⟩] := by decide

theorem witness_JumpSubroutine : let s := { at' [] with sp := 0x81 }
    s.inv = true ∧ s.writePlaces (stackAddr s.sp) = [⟨.riotRam, 1⟩] ∧ s.writePlaces (stackAddr (s.sp - 1)) = [⟨.riotRam, 0⟩] := by decide

theorem witness_BreakInstruction : let s := { at' [] with sp := 0x82 }
    s.inv = true ∧ s.writePlaces (stackAddr s.sp) = [⟨.riotRam, 2⟩] ∧ s.writePlaces (stackAddr (s.sp - 2)) = [⟨.riotRam, 0⟩] := by decide

theorem witness_CallsAndTrapsReturn : let s := { at' [] with sp := 0x81 }
    let b := { at' [] with sp := 0x82 }
    s.inv = true ∧ 0x81 ≤ s.sp.toNat ∧ b.inv = true ∧ 0x82 ≤ b.sp.toNat
      ∧ (∃ t, exec (.jsr 0x23) s = .next t) ∧ ∃ t, exec .brk b = .next t :=
  ⟨by decide, by decide, by decide, by decide, ⟨_, rfl⟩, ⟨_, rfl⟩⟩

theorem witness_BusMaskAndLatch : (0x1080 : Word).toNat % 0x2000 = (0x3080 : Word).toNat % 0x2000
    ∧ (at' []).sys.dataBusLocked = false ∧ ((at' []).lockDataBus true).sys.dataBusLocked = true := by decide

theorem witness_RiotRamMirrors : (at' []).sys.devices = attachOrder ∧ Memory.wf 128 (at' []).sys.riot.ram = true
    ∧ ([0x0080, 0x01FF, 0x0D80, 0xEDFF].all fun p : Word => !p.getLsbD 12 && p.getLsbD 7 && !p.getLsbD 9) = true
    ∧ (0x00FF : Word).toNat % 128 = (0x01FF : Word).toNat % 128 := by decide

/-- Each clause at both ends of its range: ROM, the read port, the write port. -/
theorem witness_WindowAccessFollowsMap : (withCart .f8sc 8192 []).devices = attachOrder ∧ (0x1000 : Word).getLsbD 12 = true
    ∧ (let c := (withCart .f8sc 8192 []).cart
      (c.hotspot 0).cell 0 = .ramWrite 0 ∧ (c.hotspot 127).cell 127 = .ramWrite 127 ∧ (c.hotspot 128).cell 128 = .ramRead 0
        ∧ (c.hotspot 255).cell 255 = .ramRead 127 ∧ (c.hotspot 256).cell 256 = .rom 4352
        ∧ (c.hotspot 0xFF8).cell 0xFF8 = .rom 0xFF8 ∧ (c.hotspot 0xFFF).cell 0xFFF = .rom 0x1FFF) := by decide

theorem witness_HotspotsPerVariant : (withCart .e0 8192 []).cart.bankLocked = false
    ∧ ((withCart .e0 8192 []).cart.hotspot 0xFE0).currentBank = 0 ∧ ((withCart .e0 8192 []).cart.hotspot 0xFEF).slot1 = 7
    ∧ ((withCart .e7 16384 []).cart.hotspot 0xFEB).ramBank = 3 ∧ ((withCart .f4 32768 []).cart.hotspot 0xFF4).currentBank = 0
    ∧ ((withCart .f6 16384 []).cart.hotspot 0xFF5).currentBank = 0 := by decide

theorem witness_BankLockAndWrap : let s := (at' [0xEA]).lockBank true
    s.sys.cart.bankLocked = true ∧ (∃ t, step s = .next t) ∧ (at' []).sys.cart.bankLocked = false := ⟨by decide, ⟨_, rfl⟩, by decide⟩

theorem witness_TrappedTiaPages : (withCart .c3F 8192 []).devices = attachOrder ∧ (withCart .c3F 8192 []).cart.bankLocked = false
    ∧ (withCart .c3F 8192 []).cart.variant = .c3F ∧ (0x003F : Word).toNat % 0x2000 < 0x40 ∧ (0x2000 : Word).toNat % 0x2000 < 0x40
    ∧ (withCart .c3E 8192 []).cart.variant = .c3E ∧ (withCart .ua 8192 []).cart.variant = .ua
    ∧ 0x200 ≤ (0x0200 : Word).toNat % 0x2000 ∧ (0x227F : Word).toNat % 0x2000 < 0x280 := by decide

theorem witness_FeSwitch : (withCart .fe 8192 []).cart.variant = .fe ∧ (withCart .fe 8192 []).devices.contains .cart = true
    ∧ ((withCart .fe 8192 []).peek 0x01FE).2.cart.feArmed = true
    ∧ ((withCart .fe 8192 []).poke 0x01FF 0).cart.feArmed = false := by decide

/-- Reads at `d = E - 1` and `d = E`; every timer write address. -/
theorem witness_RiotTimer : let y := (withCart .c4K 4096 []).poke 0x0294 10
    let at9 := y.setCycles 9
    let at10 := y.setCycles 10
    y.devices = attachOrder
      ∧ ([0x0284, 0x0294, 0x0295, 0x0296, 0x0297, 0x029F].all fun p : Word =>
          !p.getLsbD 12 && p.getLsbD 9 && p.getLsbD 7 && p.getLsbD 2) = true
      ∧ (0x0294 : Word).getLsbD 4 = true ∧ (0x0284 : Word).getLsbD 0 = false ∧ y.cfg.underflow = .continue1T
      ∧ (at9.cycles - at9.riot.timerSetCycle).toNat < at9.riot.timerN.toNat * 2 ^ at9.riot.timerInterval.shift
      ∧ at10.riot.timerN.toNat * 2 ^ at10.riot.timerInterval.shift ≤ (at10.cycles - at10.riot.timerSetCycle).toNat := by decide

theorem witness_RiotPortsAndFlags : (at' []).sys.devices = attachOrder
    ∧ ([0x0280, 0x0281, 0x0282, 0x0283].all fun p : Word =>
        !p.getLsbD 12 && p.getLsbD 9 && p.getLsbD 7 && !p.getLsbD 2) = true
    ∧ ([0x0284, 0x0285, 0x0286, 0x0287].all fun p : Word => p.getLsbD 2 && !p.getLsbD 4) = true
    ∧ (0x0285 : Word).getLsbD 0 = true
    ∧ (let y := (at' []).sys.poke 0x0281 0x0F
      y.riot.ddra.getLsbD 3 = true ∧ (y.setRiot { y.riot with pa7Flag := true }).riot.pa7Flag = true) := by decide

theorem witness_SoundPokeEnqueues : (at' []).sys.devices = attachOrder ∧ (0x0055 : Word).getLsbD 12 = false
    ∧ (0x0055 : Word).getLsbD 7 = false ∧ (0x0015 : Word).toNat % 64 = 0x15 ∧ (0x001A : Word).toNat % 64 = 0x1A
    ∧ soundEnabled (at' []).sys.cfg = true
    ∧ (∀ r ∈ [(⟨0, 1⟩ : CallbackRequest), ⟨0, 2⟩], r.writes = 0) ∧ [(⟨1, 5⟩ : CallbackRequest)].head? = some ⟨1, 5⟩
    ∧ (⟨1, 5⟩ : CallbackRequest).writes ≠ 0 := by decide

theorem witness_WaveformByMode : ({ Channel.reset with divCnt := 1, divMax := 1, audc := 4 } : Channel).divCnt = 1 := by decide

theorem witness_CallbackEmitsWholeFragment : Config.wf (at' []).sys.cfg = true ∧ soundEnabled (at' []).sys.cfg = true
    ∧ (at' []).sys.audio.muted = false := by decide

/-- V-T9's queue of 0.25 s drains; one of 0.125 s does not. Two entries are dropped, and before each drop the rest is longer
than the bound. -/
theorem witness_DrainBoundsQueue : let e : QueueEntry := { addr := 0x15, value := 4, delta := ⟨2 ^ 52, -56⟩ }
    F64.lt (framesToSeconds {} (Nat.log2 512)) (queueDuration [e, e, e, e]) = true
      ∧ F64.lt (framesToSeconds {} (Nat.log2 512)) (queueDuration [e, e]) = false
      ∧ [e, e] = [e] ++ [e] ∧ [e] ≠ []
      ∧ F64.lt (framesToSeconds {} (Nat.log2 512 - 1 : Int)) (queueDuration ([e] ++ [e, e])) = true := by decide

theorem witness_StarvationZeroesStamp : let e : QueueEntry := { addr := 0x15, value := 4, delta := ⟨2 ^ 52, -56⟩ }
    (({ (at' []).sys.audio with lastSetCycle := 9 } : Audio).callback {} 0).2.queue = []
      ∧ (({ (at' []).sys.audio with queue := [e] } : Audio).callback {} 0).2.queue ≠ [] := by decide

theorem witness_SystemResetState : (at' []).sys.devices = attachOrder
    ∧ ((withCart .e7 16384 []).cart.reset {}).variant = .e7 := by decide

theorem witness_ResetCyclesRebases : (at' []).sys.devices = attachOrder := rfl

theorem witness_PatchWritesMappedByte : (0x0FFF : Word).getLsbD 12 = false ∧ (0xFFFF : Word).getLsbD 12 = true
    ∧ (at' []).sys.cart.cell 0 = .rom 0 ∧ (at' []).sys.cart.cell 0xFFF = .rom 0xFFF ∧ (at' []).inv = true
    ∧ (at' []).sys.cart.hotspot 0xFFF = (at' []).sys.cart := by decide

/-- Two states of one machine that differ in CPU, RAM and sound registers. -/
theorem witness_SaveLoadRoundTrip : let s : State := { at' [0xA9] with a := 0x5A, sys := (at' [0xA9]).sys.poke 0x0080 7 }
    let t : State := { at' [0xA9] with sys := ((at' [0xA9]).sys.poke 0x0015 4).setAudio ((at' []).sys.audio.synthSet 0x17 3) }
    s.inv = true ∧ t.inv = true ∧ t.sys.cart.variant = s.sys.cart.variant ∧ t.sys.cart.romSize = s.sys.cart.romSize
      ∧ t.sys.cart.romKey = s.sys.cart.romKey ∧ s.sys.cart.romKey.length < 2 ^ 32 ∧ s ≠ t := by decide

end Sys2Proof.Tests
end

section
/-! What one step can do, and the invariant it keeps. -/

namespace Sys2Proof.Machine

/-- An instruction that answers a next state was illegal and raised FatalError, or was decoded, executed and counted
(60_exceptions.md R302, R303). -/
theorem runInstruction_cases {s t : State} (h : runInstruction s = .next t) :
    (∃ e, decode s.fetchInstruction.1 = .error e ∧ t = s.fetchInstruction.2.raiseFatal s.pc)
      ∨ ∃ i rest u, decode s.fetchInstruction.1 = .ok (i, rest) ∧ exec i s.fetchInstruction.2 = .next u
          ∧ t = u.countInstruction := by
  unfold runInstruction at h
  cases hd : decode s.fetchInstruction.1 with
  | error e =>
    simp only [hd, Host.Outcome.next.injEq] at h
    exact .inl ⟨e, rfl, h.symm⟩
  | ok r =>
    obtain ⟨i, rest⟩ := r
    obtain ⟨u, hu⟩ := exec_next i s.fetchInstruction.2
    simp only [hd, hu, Host.Outcome.next.injEq] at h
    exact .inr ⟨i, rest, u, rfl, hu, h.symm⟩

/-- A step that answers a next state started without FatalError: it serviced an interrupt if one was due and ran one
instruction (60_exceptions.md R300, R304). -/
theorem step_next {s t : State} (h : step s = .next t) :
    s.sys.status.fatal = false ∧ runInstruction s.clearStop.serviceInterrupt = .next t := by
  unfold step at h
  split at h
  · cases h
  · next hf => exact ⟨Bool.eq_false_iff.mpr hf, h⟩

theorem State.clearStop_inv {s : State} (h : s.inv = true) : s.clearStop.inv = true := h

theorem State.raiseFatal_inv {s : State} (start : Word) (h : s.inv = true) : (s.raiseFatal start).inv = true := h

theorem State.countInstruction_inv {s : State} (h : s.inv = true) : s.countInstruction.inv = true := h

theorem State.takeNMI_inv {s : State} (h : s.inv = true) : s.takeNMI.inv = true :=
  (State.interruptEntry_run (vec := nmiVector) (by decide) (by decide) _).inv h

theorem State.takeIRQ_inv {s : State} (h : s.inv = true) : s.takeIRQ.inv = true :=
  (State.interruptEntry_run (vec := irqVector) (by decide) (by decide) _).inv h

theorem State.serviceInterrupt_inv {s : State} (h : s.inv = true) : s.serviceInterrupt.inv = true := by
  unfold State.serviceInterrupt
  split
  · exact State.takeNMI_inv h
  · split
    · exact State.takeIRQ_inv h
    · exact h

/-- Fetching and executing are runs of bus accesses, each of which keeps the invariant. -/
theorem runInstruction_inv {s t : State} (hs : s.inv = true) (h : runInstruction s = .next t) : t.inv = true := by
  have hf : s.fetchInstruction.2.inv = true := s.fetchInstruction_run.inv hs
  obtain ⟨_, -, rfl⟩ | ⟨i, _, u, -, hu, rfl⟩ := runInstruction_cases h
  · exact State.raiseFatal_inv s.pc hf
  · obtain ⟨_, hr⟩ := exec_run hu
    exact State.countInstruction_inv (hr.inv hf)

/-- Settles O13: clearing StopExecution, the interrupt entry and the instruction each keep the invariant. -/
theorem stepKeepsInvariant : Obligations.StepKeepsInvariant := by
  intro s t hs h
  obtain ⟨-, hrun⟩ := step_next h
  exact runInstruction_inv (State.serviceInterrupt_inv (State.clearStop_inv hs)) hrun

end Sys2Proof.Machine
end

section
/-! What a whole step keeps: the fields no bus access changes, up to the status, and no new pending interrupt. -/

namespace Sys2Proof.Machine

/-- `z` is `y` up to what a step may change: the steady fields stay, but the status may move where no interrupt becomes
pending by it (60_exceptions.md R307, R308, R316). -/
structure System.StepKept (y z : System) : Prop where
  steady : y.Steady (z.setStatus y.status)
  irq : z.status.irq = true → y.status.irq = true
  nmi : z.status.nmi = true → y.status.nmi = true

/-- Steadiness does not depend on a status shared by both sides. -/
theorem System.Steady.setStatus_both {y z : System} (h : y.Steady z) (e : ExecStatus) :
    (y.setStatus e).Steady (z.setStatus e) :=
  { h with fatal := rfl, irq := rfl, nmi := rfl }

theorem System.Steady.stepKept {y z : System} (h : y.Steady z) : y.StepKept z where
  steady := { h with fatal := rfl, irq := rfl, nmi := rfl }
  irq hz := h.irq ▸ hz
  nmi hz := h.nmi ▸ hz

theorem System.StepKept.trans {y z w : System} (h : y.StepKept z) (k : z.StepKept w) : y.StepKept w where
  steady := h.steady.trans (k.steady.setStatus_both y.status)
  irq := h.irq ∘ k.irq
  nmi := h.nmi ∘ k.nmi

theorem System.StepKept.setStatus {y : System} {e : ExecStatus} (hi : e.irq = true → y.status.irq = true)
    (hn : e.nmi = true → y.status.nmi = true) : y.StepKept (y.setStatus e) :=
  ⟨.refl y, hi, hn⟩

theorem State.clearStop_stepKept (s : State) : s.sys.StepKept s.clearStop.sys := .setStatus id id

theorem State.raiseFatal_stepKept (start : Word) (s : State) : s.sys.StepKept (s.raiseFatal start).sys := .setStatus id id

theorem State.interruptEntry_stepKept {vec : Word} (h : 0xA00 ≤ windowOffset (busAddr vec))
    (h' : 0xA00 ≤ windowOffset (busAddr (vec + 1))) (s : State) : s.sys.StepKept (s.interruptEntry vec).sys :=
  (State.interruptEntry_run h h' s).steady.stepKept

theorem State.takeNMI_stepKept (s : State) : s.sys.StepKept s.takeNMI.sys :=
  System.StepKept.trans (z := s.sys.setStatus { s.sys.status with nmi := false }) (.setStatus id (by simp))
    (State.interruptEntry_stepKept (vec := nmiVector) (by decide) (by decide) (s.setSys _))

theorem State.takeIRQ_stepKept (s : State) : s.sys.StepKept s.takeIRQ.sys :=
  System.StepKept.trans (z := s.sys.setStatus { s.sys.status with irq := false }) (.setStatus (by simp) id)
    (State.interruptEntry_stepKept (vec := irqVector) (by decide) (by decide) (s.setSys _))

theorem State.serviceInterrupt_stepKept (s : State) : s.sys.StepKept s.serviceInterrupt.sys := by
  unfold State.serviceInterrupt
  split
  · exact s.takeNMI_stepKept
  · split
    · exact s.takeIRQ_stepKept
    · exact (System.Steady.refl _).stepKept

theorem runInstruction_stepKept {s t : State} (h : runInstruction s = .next t) : s.sys.StepKept t.sys := by
  have hf : s.sys.StepKept s.fetchInstruction.2.sys := s.fetchInstruction_run.steady.stepKept
  obtain ⟨_, -, rfl⟩ | ⟨i, _, u, -, hu, rfl⟩ := runInstruction_cases h
  · exact hf.trans (State.raiseFatal_stepKept s.pc _)
  · obtain ⟨_, hr⟩ := exec_run hu
    exact hf.trans hr.steady.stepKept

theorem step_stepKept {s t : State} (h : step s = .next t) : s.sys.StepKept t.sys :=
  (s.clearStop_stepKept.trans s.clearStop.serviceInterrupt_stepKept).trans (runInstruction_stepKept (step_next h).2)

/-- Settles O14: a step is steady up to the status, and with no callback scheduled its sound writes only enqueue. -/
theorem stepKeepsHostSide : Obligations.StepKeepsHostSide := by
  intro s t h
  obtain ⟨k, hirq, hnmi⟩ := step_stepKept h
  obtain ⟨ws, hw⟩ := k.audio
  refine ⟨k.cfg, k.devices, k.dataBusLocked, k.variant, k.romSize, k.rom, k.romKey, k.bankLocked, k.volume, k.muted,
    ⟨ws, hw⟩, fun hidle => ?_, hirq, hnmi⟩
  obtain ⟨hch0, hch1, hcounter, hfragments, -, hqueue⟩ := Audio.writes_idle s.sys.cfg ws s.sys.audio hidle
  have ha : t.sys.audio = s.sys.audio.writes s.sys.cfg ws := hw
  rw [ha]
  exact ⟨hch0, hch1, hcounter, hfragments, hqueue⟩

/-- Settles O45: `bank(b)` is the unlocked switch, and a step is steady, so a locked cartridge keeps its bank registers. -/
theorem bankLockAndWrap : Obligations.BankLockAndWrap := by
  refine ⟨fun _ _ => rfl, fun s t hl h => ?_⟩
  obtain ⟨hbank, hslot1, hslot2, hram, hsel⟩ := (step_stepKept h).steady.banks hl
  exact ⟨hbank, hslot1, hslot2, hram, hsel⟩

/-- The rebase of RIOT, TIA and cartridge subtracts `cycles` from the two stamps and touches nothing else
(20_memory.md R67; 60_exceptions.md R333, R348). -/
theorem System.resetCycles_eq {y : System} (h : y.devices = attachOrder) : y.resetCycles = { y with
    cycles := 0
    riot := { y.riot with timerSetCycle := y.riot.timerSetCycle - y.cycles }
    audio := { y.audio with lastSetCycle := y.audio.lastSetCycle - y.cycles } } :=
  calc y.resetCycles = (attachOrder.foldl (System.rebaseDevice y.cycles) y).setCycles 0 := by rw [System.resetCycles, h]
    _ = _ := rfl

/-- Settles O58: `cycles` becomes 0 and each stamp moves by the old `cycles`, so the differences stay. -/
theorem resetCyclesRebases : Obligations.ResetCyclesRebases := by
  intro y hd
  have rebase (c stamp : U32) : 0 - (stamp - c) = c - stamp := by bv_omega
  simp only [System.resetCycles_eq hd, rebase, and_self]

end Sys2Proof.Machine
end

section
/-! Bus accesses by region: the address bits of a word, the latch, and what a peek and a poke are at RIOT RAM, in the
cartridge window and on a TIA page (20_memory.md R60 to R78). -/

namespace Sys2Proof.Machine

/-! ## Addresses -/

theorem busAddr_toNat (p : Word) : (busAddr p).toNat = p.toNat % 0x2000 := BitVec.toNat_setWidth 13 p

theorem busAddr_getLsbD {i : Nat} (hi : i < 13) (p : Word) : (busAddr p).getLsbD i = p.getLsbD i := by
  simp [busAddr, hi]

theorem busAddr_eq_iff (p : Word) (a : BusAddr) : busAddr p = a ↔ p.toNat % 0x2000 = a.toNat := by
  rw [← BitVec.toNat_inj, busAddr_toNat]

theorem windowOffset_busAddr (p : Word) : windowOffset (busAddr p) = p.toNat % 4096 := by
  rw [windowOffset_eq, busAddr_toNat]; omega

theorem ramIndex_busAddr (p : Word) : (busAddr p &&& 0x7F).toNat = p.toNat % 128 := by
  rw [BitVec.toNat_and, busAddr_toNat]
  exact (Nat.and_two_pow_sub_one_eq_mod _ 7).trans (by omega)

/-! ## What the observer and the latch leave alone -/

@[simp] theorem System.feObserve_dataBus (a : BusAddr) (d : Byte) (y : System) : (y.feObserve a d).dataBus = y.dataBus := by
  unfold System.feObserve; split <;> rfl

@[simp] theorem System.feObserve_riot (a : BusAddr) (d : Byte) (y : System) : (y.feObserve a d).riot = y.riot := by
  unfold System.feObserve; split <;> rfl

@[simp] theorem System.feObserve_audio (a : BusAddr) (d : Byte) (y : System) : (y.feObserve a d).audio = y.audio := by
  unfold System.feObserve; split <;> rfl

@[simp] theorem System.latch_riot (v : Byte) (y : System) : (y.latch v).riot = y.riot := by
  unfold System.latch; split <;> rfl

@[simp] theorem System.latch_cart (v : Byte) (y : System) : (y.latch v).cart = y.cart := (y.latch_quiet v).cart

@[simp] theorem System.latch_devices (v : Byte) (y : System) : (y.latch v).devices = y.devices :=
  (y.latch_quiet v).steady.devices

theorem System.feObserve_of_not_fe {y : System} (h : y.cart.variant ≠ .fe) (a : BusAddr) (d : Byte) :
    y.feObserve a d = y :=
  if_neg fun k => h k.1

/-! ## The latch (20_memory.md R62, R63) -/

@[simp] theorem System.storeAt_dataBus (l : Loc) (v : Byte) (y : System) : (y.storeAt l v).dataBus = y.dataBus := by
  unfold System.storeAt; split <;> rfl

theorem System.riotPeek_dataBus (a : BusAddr) (y : System) : (y.riotPeek a).2.dataBus = y.dataBus := by
  unfold System.riotPeek System.portRead System.intimRead System.timintRead
  simp only
  repeat' split
  all_goals rfl

theorem System.cartPeek_dataBus (a : BusAddr) (y : System) : (y.cartPeek a).2.dataBus = y.dataBus := by
  cases h12 : a.getLsbD 12 with
  | true =>
    rw [System.cartPeek_window h12]
    split
    · exact System.storeAt_dataBus _ _ _
    · rfl
  | false =>
    unfold System.cartPeek
    simp only [h12, Bool.false_eq_true, if_false]
    split <;> rfl

/-- Fetching a byte leaves the latch to `peek`. -/
theorem System.fetchByte_dataBus (a : BusAddr) (y : System) : (y.fetchByte a).2.dataBus = y.dataBus := by
  unfold System.fetchByte
  split
  · rfl
  · cases (y.pageAccess a).device with
    | riot => exact y.riotPeek_dataBus a
    | tia => rfl
    | cart => exact y.cartPeek_dataBus a
    | null => rfl

theorem System.peek_dataBus (p : Word) (y : System) :
    (y.peek p).2.dataBus = if y.dataBusLocked then y.dataBus else (y.peek p).1 := by
  have hl : (y.fetchByte (busAddr p)).2.dataBusLocked = y.dataBusLocked := (System.fetchByte_effect p y).steady.dataBusLocked
  simp only [System.peek, System.feObserve_dataBus, System.latch, hl]
  split
  · exact y.fetchByte_dataBus (busAddr p)
  · rfl

theorem System.poke_dataBus (p : Word) (v : Byte) (y : System) : (y.poke p v).dataBus = v :=
  System.feObserve_dataBus _ _ _

/-- Settles O41: an access sees its address through `busAddr` alone; a peek latches unless locked, a poke always. -/
theorem busMaskAndLatch : Obligations.BusMaskAndLatch := by
  intro y p q
  refine ⟨fun h => ?_, fun h => ?_, fun h => ?_, fun v => y.poke_dataBus p v⟩
  · have e : busAddr p = busAddr q := (busAddr_eq_iff p _).2 (h.trans (busAddr_toNat q).symm)
    simp only [System.peek, System.poke, e, implies_true, and_self]
  · simp [System.peek_dataBus, h]
  · simp [System.peek_dataBus, h]

/-! ## RIOT RAM (20_memory.md R73, R78) -/

section RiotRam
variable {y : System} (hd : y.devices = attachOrder) {p : Word} (h12 : p.getLsbD 12 = false) (h7 : p.getLsbD 7 = true)
  (h9 : p.getLsbD 9 = false)
include hd h12 h7 h9

theorem System.fetchByte_riotRam : y.fetchByte (busAddr p) = (y.riot.ram.read (p.toNat % 128), y) := by
  rw [← busAddr_getLsbD (by decide)] at h12 h7 h9
  simp only [System.fetchByte, System.pageAccess_riot hd h12 h7, h9, Bool.false_eq_true, if_false, ramIndex_toNat,
    ramIndex_busAddr, System.byteAt]

theorem System.putByte_riotRam (v : Byte) :
    y.putByte (busAddr p) v = y.setRiot { y.riot with ram := y.riot.ram.write (p.toNat % 128) v } := by
  rw [← busAddr_getLsbD (by decide)] at h12 h7 h9
  simp only [System.putByte, System.pageAccess_riot hd h12 h7, h9, Bool.false_eq_true, if_false, ramIndex_toNat,
    ramIndex_busAddr, System.storeAt]

theorem System.peek_riotRam : (y.peek p).1 = y.riot.ram.read (p.toNat % 128) ∧ (y.peek p).2.riot = y.riot := by
  simp [System.peek, System.fetchByte_riotRam hd h12 h7 h9]

theorem System.poke_riotRam (v : Byte) : (y.poke p v).riot = { y.riot with ram := y.riot.ram.write (p.toNat % 128) v } := by
  simp [System.poke, System.putByte_riotRam hd h12 h7 h9]

end RiotRam

/-- Settles O42: every mirror is the byte at the low seven bits, so a byte written at one is read at the others. -/
theorem riotRamMirrors : Obligations.RiotRamMirrors := by
  intro y p hd hw h12 h7 h9
  obtain ⟨hread, hriot⟩ := System.peek_riotRam hd h12 h7 h9
  refine ⟨hread, hriot, fun v => ⟨System.poke_riotRam hd h12 h7 h9 v, fun q q12 q7 q9 hpq => ?_⟩⟩
  have hd' : (y.poke p v).devices = attachOrder := (System.poke_effect p v y).steady.devices.trans hd
  rw [(System.peek_riotRam hd' q12 q7 q9).1, System.poke_riotRam hd h12 h7 h9, ← hpq, Memory.read_write_wf hw, if_pos rfl]

/-! ## The cartridge below the window (20_memory.md R103, R104, R107) -/

section Low
variable {y : System} {a : BusAddr} (h12 : a.getLsbD 12 = false)
include h12

theorem System.cartPeek_ua (hv : y.cart.variant = .ua) :
    (y.cartPeek a).1 = Config.freeByte y.draws ∧ (y.cartPeek a).2.cart = y.cart.uaHotspot a := by
  simp only [System.cartPeek, h12, hv]
  exact ⟨rfl, rfl⟩

theorem System.cartPeek_not_ua (hv : y.cart.variant ≠ .ua) :
    (y.cartPeek a).1 = Config.freeByte y.draws ∧ (y.cartPeek a).2.cart = y.cart := by
  rw [System.cartPeek, if_neg (by rw [h12]; decide)]
  split
  · next e => exact absurd e hv
  · exact ⟨rfl, rfl⟩

theorem System.cartPoke_ua (hv : y.cart.variant = .ua) (v : Byte) :
    y.cartPoke a v = (y.setCart (y.cart.uaHotspot a)).tiaPoke a v := by
  simp only [System.cartPoke, h12, hv]
  rfl

theorem System.cartPoke_not_ua (hv : y.cart.variant ≠ .ua) (v : Byte) :
    y.cartPoke a v = (y.setCart (y.cart.trapPoke a v)).tiaPoke a v := by
  rw [System.cartPoke, if_neg (by rw [h12]; decide)]
  split
  · next e => exact absurd e hv
  · rfl

end Low

/-- Below the window a cartridge passes a poke on to the TIA, after at most a bank switch. -/
theorem System.cartPoke_low {y : System} {a : BusAddr} (h12 : a.getLsbD 12 = false) (v : Byte) :
    ∃ c, y.cartPoke a v = (y.setCart c).tiaPoke a v := by
  by_cases hv : y.cart.variant = .ua
  · exact ⟨_, System.cartPoke_ua h12 hv v⟩
  · exact ⟨_, System.cartPoke_not_ua h12 hv v⟩

/-! ## TIA sound writes (20_memory.md R77, R82) -/

theorem isSoundReg_ofNat {r : Nat} (h : r < 64) : isSoundReg (BitVec.ofNat 8 r) = true ↔ 0x15 ≤ r ∧ r ≤ 0x1A := by
  simp [isSoundReg, Nat.mod_eq_of_lt (show r < 256 by omega)]

theorem tiaRegister_busAddr (p : Word) : ((busAddr p).setWidth 6).setWidth 8 = BitVec.ofNat 8 (p.toNat % 64) := by
  apply BitVec.eq_of_toNat_eq
  simp only [BitVec.toNat_setWidth, busAddr_toNat, BitVec.toNat_ofNat]
  omega

theorem System.videoPoke_audio (y : System) : y.videoPoke.audio = y.audio := by
  unfold System.videoPoke; split <;> rfl

theorem System.tiaPoke_audio (p : Word) (v : Byte) (y : System) : (y.tiaPoke (busAddr p) v).audio =
    if 0x15 ≤ p.toNat % 64 ∧ p.toNat % 64 ≤ 0x1A then y.audio.set y.cfg (BitVec.ofNat 8 (p.toNat % 64)) v y.cycles
    else y.audio := by
  simp only [System.tiaPoke, tiaRegister_busAddr, isSoundReg_ofNat (Nat.mod_lt p.toNat (by decide : 64 > 0))]
  split
  · rfl
  · exact y.videoPoke_audio

/-- On a TIA page the audio state is the TIA's, whether or not a cartridge has taken the page. -/
theorem System.putByte_tia_audio {y : System} (hd : y.devices = attachOrder) {p : Word} (h12 : p.getLsbD 12 = false)
    (h7 : p.getLsbD 7 = false) (v : Byte) : (y.putByte (busAddr p) v).audio = (y.tiaPoke (busAddr p) v).audio := by
  rw [← busAddr_getLsbD (by decide)] at h12 h7
  simp only [System.putByte, System.pageAccess_tia hd h12 h7]
  split
  · obtain ⟨c, hc⟩ := System.cartPoke_low (y := y) h12 v
    simp only [System.devicePoke, hc, System.tiaPoke_audio]
    rfl
  · rfl

theorem System.poke_tia_audio {y : System} (hd : y.devices = attachOrder) {p : Word} (h12 : p.getLsbD 12 = false)
    (h7 : p.getLsbD 7 = false) (v : Byte) : (y.poke p v).audio = (y.tiaPoke (busAddr p) v).audio :=
  (System.feObserve_audio _ _ _).trans (System.putByte_tia_audio hd h12 h7 v)

/-- The leading requests that wait for no write are served in order, before the rest of the schedule
(20_memory.md R82; 60_exceptions.md R365, R375). -/
theorem Audio.serveDue_append (cfg : Config) (rest : List CallbackRequest) :
    ∀ (due : List CallbackRequest) (u : Audio), (∀ r ∈ due, r.writes = 0) →
      u.serveDue cfg (due ++ rest) = (due.foldl (fun w r => w.serve cfg r.length) u).serveDue cfg rest
  | [], _, _ => rfl
  | r :: due, u, h => by
    have hr : r.writes = 0 := h r (List.mem_cons_self ..)
    simp only [List.cons_append, Audio.serveDue, hr, if_true, List.foldl_cons]
    exact Audio.serveDue_append cfg rest due _ fun x hx => h x (List.mem_cons_of_mem _ hx)

/-- Settles O50: a poke of a sound register is `Audio.set`, and the requests due are served before those that wait. -/
theorem soundPokeEnqueues : Obligations.SoundPokeEnqueues := by
  refine ⟨fun y p v hd h12 h7 => ?_, fun cfg u due rest hdue hrest => ?_⟩
  · simp only [System.poke_tia_audio hd h12 h7, System.tiaPoke_audio, Audio.set]
    by_cases hr : 0x15 ≤ p.toNat % 64 ∧ p.toNat % 64 ≤ 0x1A
    · by_cases hs : soundEnabled y.cfg = true
      · simp [hr, hs, Audio.enqueue, writeDelta]
      · simp [hs]
    · rw [if_neg hr, if_neg fun k => hr ⟨k.1, k.2.1⟩]
  · rw [Audio.serveDue_append cfg rest due u hdue]
    cases rest with
    | nil => rfl
    | cons r rs =>
      have hr : r.writes ≠ 0 := hrest r rfl
      simp only [Audio.serveDue, hr, if_false]
      rfl

end Sys2Proof.Machine
end

section
/-! Cartridge accesses: what a hotspot and a bank switch do, what a window access is, whether or not its page has a direct
pointer, and what the FE observer sees (20_memory.md R90 to R123). -/

namespace Sys2Proof.Machine

/-! ## Bank switches of an unlocked cartridge (20_memory.md R91, R96 to R109) -/

section Unlocked
variable {c : Cart} (h : c.bankLocked = false)
include h

theorem Cart.switch_unlocked (f : Cart → Cart) : c.switch f = f c := by
  simp [Cart.switch, h]

theorem Cart.bank_of_lt {b : Nat} (hb : b < c.bankCount) : c.bank b = { c with currentBank := b } := by
  rw [Cart.bank, Cart.switch_unlocked h, Nat.mod_eq_of_lt hb]

theorem Cart.rangeHotspot_unlocked (first o : Nat) : c.rangeHotspot first o =
    if first ≤ o ∧ o < first + c.bankCount then { c with currentBank := o - first } else c := by
  unfold Cart.rangeHotspot
  split
  · exact Cart.bank_of_lt h (by omega)
  · rfl

theorem Cart.e0Hotspot_unlocked (hv : c.variant = .e0) (o : Nat) : c.e0Hotspot o =
    if 0xFE0 ≤ o ∧ o ≤ 0xFE7 then { c with currentBank := o - 0xFE0 }
    else if 0xFE8 ≤ o ∧ o ≤ 0xFEF then { c with slot1 := o - 0xFE8 }
    else if 0xFF0 ≤ o ∧ o ≤ 0xFF7 then { c with slot2 := o - 0xFF0 }
    else c := by
  have hcount : c.bankCount = 8 := by simp [Cart.bankCount, hv]
  unfold Cart.e0Hotspot
  simp only [← Nat.lt_succ_iff]
  split
  · exact Cart.bank_of_lt h (by omega)
  · split
    · rw [Cart.selectSlot1, Cart.switch_unlocked h, Nat.mod_eq_of_lt (by omega)]
    · split
      · rw [Cart.selectSlot2, Cart.switch_unlocked h, Nat.mod_eq_of_lt (by omega)]
      · rfl

theorem Cart.e7Hotspot_unlocked (hv : c.variant = .e7) (o : Nat) : c.e7Hotspot o =
    if 0xFE0 ≤ o ∧ o ≤ 0xFE7 then { c with currentBank := o - 0xFE0 }
    else if 0xFE8 ≤ o ∧ o ≤ 0xFEB then { c with ramBank := o - 0xFE8 }
    else c := by
  have hcount : c.bankCount = 8 := by simp [Cart.bankCount, hv]
  unfold Cart.e7Hotspot
  simp only [← Nat.lt_succ_iff]
  split
  · exact Cart.bank_of_lt h (by omega)
  · split
    · have hb : o - 0xFE8 < c.variant.ramBanks := by rw [hv]; show o - 0xFE8 < 4; omega
      rw [Cart.selectRamBank, Cart.switch_unlocked h, Nat.mod_eq_of_lt hb]
    · rfl

end Unlocked

/-- F8's two-bank range, offset by offset. -/
theorem Cart.rangeHotspot_two {c : Cart} (h : c.bankLocked = false) (hcount : c.bankCount = 2) (o : Nat) :
    c.rangeHotspot 0xFF8 o =
      if o = 0xFF8 then { c with currentBank := 0 } else if o = 0xFF9 then { c with currentBank := 1 } else c := by
  rw [Cart.rangeHotspot_unlocked h, hcount]
  by_cases h0 : o = 0xFF8
  · simp [h0]
  · by_cases h1 : o = 0xFF9
    · simp [h1]
    · rw [if_neg (by omega), if_neg h0, if_neg h1]

/-- Settles O44: by variant, each hotspot group is its range of offsets and its register. -/
theorem hotspotsPerVariant : Obligations.HotspotsPerVariant := by
  intro c o h
  cases hv : c.variant
  case f8 | f8sc => simp [Cart.hotspot, hv, Cart.rangeHotspot_two h (by simp [Cart.bankCount, hv])]
  case f6 | f6sc | f4 | f4sc =>
    simp [Cart.hotspot, hv, Cart.rangeHotspot_unlocked h, Cart.bankCount, Nat.lt_succ_iff]
  case e0 => simp [Cart.hotspot, hv, Cart.e0Hotspot_unlocked h hv]
  case e7 => simp [Cart.hotspot, hv, Cart.e7Hotspot_unlocked h hv]
  case c2K | c4K | c3F | c3E | ua | cv | fe => simp [Cart.hotspot, hv]

/-! ## The observer (20_memory.md R123) -/

/-- What a cartridge becomes when it observes a completed access: FE takes part, no other variant does. -/
def Cart.observe (a : BusAddr) (d : Byte) (c : Cart) : Cart := if c.variant = .fe then c.feAccess a d else c

theorem Cart.observe_fe {c : Cart} (h : c.variant = .fe) (a : BusAddr) (d : Byte) : c.observe a d = c.feAccess a d :=
  if_pos h

theorem Cart.observe_of_not_fe {c : Cart} (h : c.variant ≠ .fe) (a : BusAddr) (d : Byte) : c.observe a d = c := if_neg h

theorem System.feObserve_cart {y : System} (h : y.devices.contains .cart = true) (a : BusAddr) (d : Byte) :
    (y.feObserve a d).cart = y.cart.observe a d := by
  unfold System.feObserve Cart.observe
  simp only [h, and_true]
  split <;> rfl

theorem System.peek_cart {y : System} (h : y.devices.contains .cart = true) (p : Word) :
    (y.peek p).2.cart = (y.fetchByte (busAddr p)).2.cart.observe (busAddr p) (y.peek p).1 := by
  have hd : (y.fetchByte (busAddr p)).2.devices = y.devices := (System.fetchByte_effect p y).steady.devices
  rw [System.peek, System.feObserve_cart (by rw [System.latch_devices, hd]; exact h), System.latch_cart]

theorem System.poke_cart {y : System} (h : y.devices.contains .cart = true) (p : Word) (v : Byte) :
    (y.poke p v).cart = (y.putByte (busAddr p) v).cart.observe (busAddr p) v := by
  have hd : (y.putByte (busAddr p) v).devices = y.devices := (System.putByte_effect p v y).steady.devices
  rw [System.poke, System.feObserve_cart (by rw [System.setDataBus_devices, hd]; exact h), System.setDataBus_cart]

theorem attachOrder_cart {y : System} (h : y.devices = attachOrder) : y.devices.contains .cart = true := by
  rw [h]; rfl

/-! ## The window (20_memory.md R90, R92, R93) -/

/-- Every hotspot lies in the window's last page, and only on the variants that have one. -/
theorem Cart.hotspot_eq_self {c : Cart} {o : Nat} (h : c.variant.hasHotspots = true → o < 0xFC0) : c.hotspot o = c := by
  have range {first : Nat} (hf : o < first) : c.rangeHotspot first o = c := if_neg (by omega)
  unfold Cart.hotspot
  cases hv : c.variant <;> rw [hv] at h <;> simp only [CartVariant.hasHotspots, forall_const] at h
  case f8 | f6 | f4 | f8sc | f6sc | f4sc => exact range (by omega)
  case e0 => rw [Cart.e0Hotspot, if_neg (by omega), if_neg (by omega), if_neg (by omega)]
  case e7 => rw [Cart.e7Hotspot, if_neg (by omega), if_neg (by omega)]

/-- A page with direct pointers holds no hotspot. -/
theorem Cart.hotspot_directPage {c : Cart} {a : BusAddr}
    (h : ¬(c.variant.hasHotspots = true ∧ windowOffset (pageStart a) = 0xFC0)) : c.hotspot (windowOffset a) = c := by
  refine Cart.hotspot_eq_self fun hs => ?_
  have hne : windowOffset (pageStart a) ≠ 0xFC0 := fun e => h ⟨hs, e⟩
  have := windowOffset_pageStart a
  have := windowOffset_pageStart_mod a
  have := windowOffset_lt a
  have := pageOffset_lt a
  omega

theorem Cart.cell_windowOffset (c : Cart) (a : BusAddr) :
    c.cell (windowOffset a) = (c.cell (windowOffset (pageStart a))).shift (pageOffset a) := by
  rw [windowOffset_pageStart a]
  exact c.cell_page (windowOffset_pageStart_mod a) (pageOffset_lt a)

section Window
variable {y : System} {a : BusAddr} (h12 : a.getLsbD 12 = true)
include h12

/-- A direct pointer reads what the cartridge would serve. -/
theorem System.fetchByte_window (hd : y.devices = attachOrder) : y.fetchByte a = y.cartPeek a := by
  unfold System.fetchByte
  rw [System.pageAccess_window hd h12]
  by_cases hpage : y.cart.variant.hasHotspots = true ∧ windowOffset (pageStart a) = 0xFC0
  · rw [Cart.windowPage, if_pos hpage]
    rfl
  · have hh := Cart.hotspot_directPage hpage
    have hcell := y.cart.cell_windowOffset a
    rw [Cart.windowPage, if_neg hpage]
    cases hc : y.cart.cell (windowOffset (pageStart a)) with
    | ramWrite k => rfl
    | rom k | ramRead k =>
      rw [hc] at hcell
      simp only [System.cartPeek, h12, if_true, hh, System.setCart_cart, hcell, Cell.shift]
      rfl

/-- A direct pointer stores what the cartridge would. -/
theorem System.putByte_window (hd : y.devices = attachOrder) (v : Byte) : y.putByte a v = y.cartPoke a v := by
  unfold System.putByte
  rw [System.pageAccess_window hd h12]
  by_cases hpage : y.cart.variant.hasHotspots = true ∧ windowOffset (pageStart a) = 0xFC0
  · rw [Cart.windowPage, if_pos hpage]
    rfl
  · have hh := Cart.hotspot_directPage hpage
    have hcell := y.cart.cell_windowOffset a
    rw [Cart.windowPage, if_neg hpage]
    cases hc : y.cart.cell (windowOffset (pageStart a)) with
    | rom k | ramRead k => rfl
    | ramWrite k =>
      rw [hc] at hcell
      simp only [System.cartPoke, h12, if_true, hh, System.setCart_cart, hcell, Cell.shift]
      rfl

theorem System.cartPeek_rom {k : Nat} (hc : (y.cart.hotspot (windowOffset a)).cell (windowOffset a) = .rom k) :
    y.cartPeek a = (y.cart.rom.read k, y.setCart (y.cart.hotspot (windowOffset a))) := by
  simp only [System.cartPeek, h12, if_true, System.setCart_cart, hc, System.byteAt, (Cart.hotspot_sameStores _ y.cart).rom]

theorem System.cartPeek_ramRead {k : Nat} (hc : (y.cart.hotspot (windowOffset a)).cell (windowOffset a) = .ramRead k) :
    y.cartPeek a = (y.cart.ram.read k, y.setCart (y.cart.hotspot (windowOffset a))) := by
  simp only [System.cartPeek, h12, if_true, System.setCart_cart, hc, System.byteAt, (Cart.hotspot_sameStores _ y.cart).ram]

/-- A read of a write port answers one draw and leaves another in the RAM byte (assumption logs 7 and 15). -/
theorem System.cartPeek_ramWrite {k : Nat} (hc : (y.cart.hotspot (windowOffset a)).cell (windowOffset a) = .ramWrite k) :
    (y.cartPeek a).1 = Config.freeByte y.draws ∧ (y.cartPeek a).2.cart = { y.cart.hotspot (windowOffset a) with
      ram := (y.cart.hotspot (windowOffset a)).ram.write k (Config.freeByte (y.draws + 1)) } := by
  simp only [System.cartPeek, h12, if_true, System.setCart_cart, hc]
  exact ⟨rfl, rfl⟩

theorem System.cartPoke_readOnly (v : Byte)
    (hc : ∀ k, (y.cart.hotspot (windowOffset a)).cell (windowOffset a) ≠ .ramWrite k) :
    (y.cartPoke a v).cart = y.cart.hotspot (windowOffset a) := by
  simp only [System.cartPoke, h12, if_true, System.setCart_cart]
  split
  · rfl
  · rfl
  · next k hk => exact absurd hk (hc k)

theorem System.cartPoke_ramWrite (v : Byte) {k : Nat}
    (hc : (y.cart.hotspot (windowOffset a)).cell (windowOffset a) = .ramWrite k) :
    (y.cartPoke a v).cart = { y.cart.hotspot (windowOffset a) with
      ram := (y.cart.hotspot (windowOffset a)).ram.write k v } := by
  simp only [System.cartPoke, h12, if_true, System.setCart_cart, hc]
  rfl

end Window

/-- FE has no on-cart RAM (20_memory.md R109). -/
theorem Cart.cell_fe {c : Cart} (h : c.variant = .fe) (o : Nat) : c.cell o = .rom (c.currentBank * 4096 + o) := by
  simp [Cart.cell, h, Cart.cell4K]

/-- Settles O43: the page's direct pointer, if any, agrees with the cartridge, which serves `map(o)` after the hotspot. -/
theorem windowAccessFollowsMap : Obligations.WindowAccessFollowsMap := by
  intro y p hd hp
  have h12 : (busAddr p).getLsbD 12 = true := (busAddr_getLsbD (by decide) p).trans hp
  have hfst : (y.peek p).1 = (y.cartPeek (busAddr p)).1 := by rw [← System.fetchByte_window h12 hd]; rfl
  have hpeek : (y.peek p).2.cart = (y.cartPeek (busAddr p)).2.cart.observe (busAddr p) (y.peek p).1 := by
    rw [System.peek_cart (attachOrder_cart hd), System.fetchByte_window h12 hd]
  have hpoke (v : Byte) : (y.poke p v).cart = (y.cartPoke (busAddr p) v).cart.observe (busAddr p) v := by
    rw [System.poke_cart (attachOrder_cart hd), System.putByte_window h12 hd]
  rw [← windowOffset_busAddr p]
  intro c observed
  cases hc : c.cell (windowOffset (busAddr p)) with
  | rom k =>
    have e := System.cartPeek_rom h12 hc
    simp only [hfst, e] at hpeek ⊢
    exact ⟨trivial, hpeek, fun v => by rw [hpoke, System.cartPoke_readOnly h12 v (by simp [c, hc])]; rfl⟩
  | ramRead k =>
    have e := System.cartPeek_ramRead h12 hc
    simp only [hfst, e] at hpeek ⊢
    exact ⟨trivial, hpeek, fun v => by rw [hpoke, System.cartPoke_readOnly h12 v (by simp [c, hc])]; rfl⟩
  | ramWrite k =>
    have hfe : c.variant ≠ .fe := fun hv => by rw [Cart.cell_fe hv] at hc; cases hc
    have observed_ram (m : Memory) (d : Byte) : ({ c with ram := m } : Cart).observe (busAddr p) d = { c with ram := m } :=
      Cart.observe_of_not_fe (c := { c with ram := m }) hfe _ _
    obtain ⟨hdraw, hram⟩ := System.cartPeek_ramWrite h12 hc
    refine ⟨hfst.trans hdraw, ?_, fun v => ?_⟩
    · rw [hpeek, hram]
      exact observed_ram _ _
    · rw [hpoke, System.cartPoke_ramWrite h12 v hc]
      exact observed_ram _ _

end Sys2Proof.Machine
end

section
/-! The switches outside the window's hotspots: FE's observer, the TIA pages 3F, 3E and UA take, and the host's patch
(20_memory.md R94, R103, R104, R107, R123). -/

namespace Sys2Proof.Machine

/-! ## FE (20_memory.md R123) -/

/-- An armed, unlocked FE cartridge takes the bank bit 5 of the byte selects. -/
theorem Cart.feAccess_currentBank {c : Cart} (h : c.variant = .fe) (a : BusAddr) (d : Byte) :
    (c.feAccess a d).currentBank =
      if c.feArmed && !c.bankLocked then (if d.getLsbD 5 then 0 else 1) else c.currentBank := by
  have arming (e : Cart) : (if a = 0x01FE then { e with feArmed := true } else e).currentBank = e.currentBank := by
    split <;> rfl
  simp only [Cart.feAccess, arming]
  cases ha : c.feArmed
  · rfl
  · cases c.bankLocked
    · cases d.getLsbD 5 <;> simp [Cart.bank, Cart.switch, Cart.bankCount, h]
    · simp [Cart.bank, Cart.switch]

theorem Cart.feAccess_feArmed (a : BusAddr) (d : Byte) (c : Cart) : (c.feAccess a d).feArmed = decide (a = 0x01FE) := by
  have hbank (b : Nat) (e : Cart) : (e.bank b).feArmed = e.feArmed := by
    unfold Cart.bank Cart.switch
    split <;> rfl
  unfold Cart.feAccess
  simp only
  split
  · next h => rw [decide_eq_true h]
  · next h =>
    rw [decide_eq_false h]
    split
    · exact hbank _ _
    · next ha => exact Bool.eq_false_iff.2 ha

/-- FE has no hotspot in the window (20_memory.md R109). -/
theorem Cart.hotspot_fe {c : Cart} (h : c.variant = .fe) (o : Nat) : c.hotspot o = c :=
  Cart.hotspot_eq_self (by simp [h, CartVariant.hasHotspots])

section Fe
variable {y : System} (h : y.cart.variant = .fe)
include h

/-- On FE, fetching a byte leaves the cartridge to the observer. -/
theorem System.fetchByte_fe_cart (a : BusAddr) : (y.fetchByte a).2.cart = y.cart := by
  unfold System.fetchByte
  split
  · rfl
  · cases (y.pageAccess a).device with
    | riot => exact (y.riotPeek_quiet a).cart
    | tia => rfl
    | null => rfl
    | cart =>
      cases h12 : a.getLsbD 12 with
      | true =>
        rw [System.devicePeek, System.cartPeek_rom h12 (by rw [Cart.hotspot_fe h]; exact Cart.cell_fe h _),
          Cart.hotspot_fe h]
        rfl
      | false => exact (System.cartPeek_not_ua h12 (by simp [h])).2

/-- On FE, storing a byte leaves the cartridge to the observer. -/
theorem System.putByte_fe_cart (a : BusAddr) (v : Byte) : (y.putByte a v).cart = y.cart := by
  unfold System.putByte
  split
  · next l hl =>
    obtain ⟨rfl, -⟩ | ⟨-, k, hk, -⟩ := System.directPoke_cases hl
    · rfl
    · rw [Cart.cell_fe h] at hk
      cases hk
  · cases (y.pageAccess a).device with
    | riot => exact (y.riotPoke_quiet a v).cart
    | tia => exact (y.tiaPoke_effect a v).cart
    | null => rfl
    | cart =>
      cases h12 : a.getLsbD 12 with
      | true =>
        rw [System.devicePoke, System.cartPoke_readOnly h12 v (by simp [Cart.hotspot_fe h, Cart.cell_fe h]),
          Cart.hotspot_fe h]
      | false =>
        rw [System.devicePoke, System.cartPoke_not_ua h12 (by simp [h]), (System.tiaPoke_effect a v _).cart]
        simp [Cart.trapPoke, h]

end Fe

/-- Settles O47: neither a fetch nor a store moves FE's registers, so the observer's switch is the access's whole effect. -/
theorem feSwitch : Obligations.FeSwitch := by
  intro y p hv hd
  have harmed (d : Byte) : (y.cart.feAccess (busAddr p) d).feArmed = decide (p.toNat % 0x2000 = 0x01FE) :=
    (Cart.feAccess_feArmed _ d y.cart).trans (decide_eq_decide.2 (busAddr_eq_iff p _))
  have hpeek : (y.peek p).2.cart = y.cart.feAccess (busAddr p) (y.peek p).1 := by
    rw [System.peek_cart hd, System.fetchByte_fe_cart hv, Cart.observe_fe hv]
  have hpoke (v : Byte) : (y.poke p v).cart = y.cart.feAccess (busAddr p) v := by
    rw [System.poke_cart hd, System.putByte_fe_cart hv, Cart.observe_fe hv]
  refine ⟨?_, fun v => ?_⟩
  · rw [hpeek]
    exact ⟨Cart.feAccess_currentBank hv _ _, harmed _⟩
  · rw [hpoke]
    exact ⟨Cart.feAccess_currentBank hv _ _, harmed _⟩

/-! ## Trapped TIA pages (20_memory.md R103, R104, R107) -/

/-- The 64-byte page an address lies in, from the address's range. -/
theorem pageStart_busAddr {p : Word} {a : BusAddr} (h : p.toNat % 0x2000 / 64 * 64 = a.toNat) : pageStart (busAddr p) = a :=
  BitVec.eq_of_toNat_eq (by rw [pageStart_toNat, busAddr_toNat, h])

/-- A page a variant takes is page 0 or one of UA's two. -/
theorem trapsPage_cases {v : CartVariant} {a : BusAddr} (h : v.trapsPage a = true) : a = 0 ∨ a = 0x200 ∨ a = 0x240 := by
  unfold CartVariant.trapsPage at h
  split at h
  · exact .inl (beq_iff_eq.1 h)
  · exact .inl (beq_iff_eq.1 h)
  · exact .inr (by simpa using h)
  · cases h

/-- A page a variant takes lies where the TIA's pages do. -/
theorem trapsPage_bits {v : CartVariant} {a : BusAddr} (h : v.trapsPage (pageStart a) = true) :
    a.getLsbD 12 = false ∧ a.getLsbD 7 = false := by
  rw [← pageStart_bit12, ← pageStart_bit7]
  rcases trapsPage_cases h with e | e | e <;> (rw [e]; decide)

theorem trapsPage_not_fe {v : CartVariant} {a : BusAddr} (h : v.trapsPage a = true) : v ≠ .fe := by
  rintro rfl
  cases h

section Trapped
variable {y : System} (hd : y.devices = attachOrder) {p : Word}
  (htrap : y.cart.variant.trapsPage (pageStart (busAddr p)) = true)
include hd htrap

theorem System.fetchByte_trapped : y.fetchByte (busAddr p) = y.cartPeek (busAddr p) := by
  obtain ⟨h12, h7⟩ := trapsPage_bits htrap
  simp [System.fetchByte, System.pageAccess_tia hd h12 h7, htrap, System.devicePeek]

theorem System.putByte_trapped (v : Byte) : y.putByte (busAddr p) v = y.cartPoke (busAddr p) v := by
  obtain ⟨h12, h7⟩ := trapsPage_bits htrap
  simp [System.putByte, System.pageAccess_tia hd h12 h7, htrap, System.devicePoke]

/-- A poke of a trapped page: the cartridge's poke, then the latch; no FE observes it. -/
theorem System.poke_trapped (v : Byte) : y.poke p v = (y.cartPoke (busAddr p) v).setDataBus v := by
  have hv : (y.putByte (busAddr p) v).cart.variant = y.cart.variant := (System.putByte_effect p v y).steady.variant
  rw [System.poke, System.feObserve_of_not_fe (by rw [System.setDataBus_cart, hv]; exact trapsPage_not_fe htrap),
    System.putByte_trapped hd htrap]

theorem System.peek_trapped_fst : (y.peek p).1 = (y.cartPeek (busAddr p)).1 := by
  rw [← System.fetchByte_trapped hd htrap]; rfl

theorem System.peek_trapped_cart : (y.peek p).2.cart = (y.cartPeek (busAddr p)).2.cart := by
  have hv : (y.cartPeek (busAddr p)).2.cart.variant = y.cart.variant := by
    rw [← System.fetchByte_trapped hd htrap]; exact (System.fetchByte_effect p y).steady.variant
  rw [System.peek_cart (attachOrder_cart hd), System.fetchByte_trapped hd htrap,
    Cart.observe_of_not_fe (by rw [hv]; exact trapsPage_not_fe htrap)]

end Trapped

section UnlockedTraps
variable {c : Cart} (h : c.bankLocked = false)
include h

theorem Cart.trapPoke_c3F (hv : c.variant = .c3F) (a : BusAddr) (v : Byte) :
    c.trapPoke a v = { c with currentBank := v.toNat % c.bankCount } := by
  simp [Cart.trapPoke, hv, Cart.bank, Cart.switch_unlocked h]

theorem Cart.trapPoke_c3E (hv : c.variant = .c3E) (a : BusAddr) (v : Byte) : c.trapPoke a v =
    if a = 0x3F then { c with currentBank := v.toNat % c.bankCount, ramSelected := false }
    else if a = 0x3E then { c with ramBank := v.toNat % 32, ramSelected := true } else c := by
  simp [Cart.trapPoke, hv, Cart.select3ERom, Cart.select3ERam, Cart.switch_unlocked h]

theorem Cart.uaHotspot_unlocked (hv : c.variant = .ua) (a : BusAddr) : c.uaHotspot a =
    if a &&& 0x1260 = 0x0220 then { c with currentBank := 0 }
    else if a &&& 0x1260 = 0x0240 then { c with currentBank := 1 } else c := by
  have hcount : c.bankCount = 2 := by simp [Cart.bankCount, hv]
  rw [Cart.uaHotspot, Cart.bank_of_lt h (by omega), Cart.bank_of_lt h (by omega)]

end UnlockedTraps

/-- 3F and 3E take page 0. -/
theorem trapsPage_first {v : CartVariant} (hv : v = .c3F ∨ v = .c3E) {p : Word} (ha : p.toNat % 0x2000 < 0x40) :
    v.trapsPage (pageStart (busAddr p)) = true := by
  rw [pageStart_busAddr (a := 0) (by simp; omega)]
  rcases hv with rfl | rfl <;> rfl

/-- UA takes the pages at $0200 and $0240. -/
theorem trapsPage_ua {p : Word} (hlo : 0x200 ≤ p.toNat % 0x2000) (hhi : p.toNat % 0x2000 < 0x280) :
    CartVariant.ua.trapsPage (pageStart (busAddr p)) = true := by
  by_cases hmid : p.toNat % 0x2000 < 0x240
  · rw [pageStart_busAddr (a := 0x200) (by simp; omega)]
    rfl
  · rw [pageStart_busAddr (a := 0x240) (by simp; omega)]
    rfl

/-- On a page 3F or 3E takes, a poke switches and goes on to the TIA, and a peek is the TIA's. -/
theorem System.access_trapped_not_ua {y : System} (hd : y.devices = attachOrder) {p : Word}
    (ht : y.cart.variant.trapsPage (pageStart (busAddr p)) = true) (hv : y.cart.variant ≠ .ua) (v : Byte) :
    y.poke p v = ((y.setCart (y.cart.trapPoke (busAddr p) v)).tiaPoke (busAddr p) v).setDataBus v
      ∧ (y.peek p).1 = Config.freeByte y.draws ∧ (y.peek p).2.cart = y.cart := by
  have h12 := (trapsPage_bits ht).1
  rw [System.poke_trapped hd ht, System.cartPoke_not_ua h12 hv, System.peek_trapped_fst hd ht,
    System.peek_trapped_cart hd ht]
  exact ⟨rfl, System.cartPeek_not_ua h12 hv⟩

/-- On a page UA takes, either access switches and goes on to the TIA. -/
theorem System.access_trapped_ua {y : System} (hd : y.devices = attachOrder) {p : Word}
    (ht : y.cart.variant.trapsPage (pageStart (busAddr p)) = true) (hv : y.cart.variant = .ua) (v : Byte) :
    y.poke p v = ((y.setCart (y.cart.uaHotspot (busAddr p))).tiaPoke (busAddr p) v).setDataBus v
      ∧ (y.peek p).1 = Config.freeByte y.draws ∧ (y.peek p).2.cart = y.cart.uaHotspot (busAddr p) := by
  have h12 := (trapsPage_bits ht).1
  rw [System.poke_trapped hd ht, System.cartPoke_ua h12 hv, System.peek_trapped_fst hd ht, System.peek_trapped_cart hd ht]
  exact ⟨rfl, System.cartPeek_ua h12 hv⟩

/-- Settles O46: the cartridge has the page, so it makes its switch and passes the access on to the TIA. -/
theorem trappedTiaPages : Obligations.TrappedTiaPages := by
  intro y p v hd hl
  refine ⟨fun hv ha => ?_, fun hv ha => ?_, fun hv hlo hhi => ?_⟩
  · rw [← Cart.trapPoke_c3F hl hv (busAddr p) v]
    exact System.access_trapped_not_ua hd (trapsPage_first (.inl hv) ha) (by simp [hv]) v
  · have hswitch := Cart.trapPoke_c3E hl hv (busAddr p) v
    simp only [busAddr_eq_iff] at hswitch
    refine (System.access_trapped_not_ua hd (trapsPage_first (.inr hv) ha) (by simp [hv]) v).imp_left fun h => ?_
    rw [h, hswitch]
    rfl
  · rw [← Cart.uaHotspot_unlocked hl hv (busAddr p)]
    exact System.access_trapped_ua hd (by rw [hv]; exact trapsPage_ua hlo hhi) hv v

/-! ## The host's patch (20_memory.md R94) -/

/-- `map(o)` reads the bank registers, not the image. -/
theorem Cart.cell_setRom (c : Cart) (m : Memory) (o : Nat) : ({ c with rom := m } : Cart).cell o = c.cell o := rfl

theorem Cart.switch_setRom {f : Cart → Cart} (c : Cart) (m : Memory) (hf : f { c with rom := m } = { f c with rom := m }) :
    ({ c with rom := m } : Cart).switch f = { c.switch f with rom := m } := by
  unfold Cart.switch
  split
  · rfl
  · exact hf

section SetRom
variable (c : Cart) (m : Memory) (n : Nat)

theorem Cart.bank_setRom : ({ c with rom := m } : Cart).bank n = { c.bank n with rom := m } := Cart.switch_setRom c m rfl

theorem Cart.selectSlot1_setRom : ({ c with rom := m } : Cart).selectSlot1 n = { c.selectSlot1 n with rom := m } :=
  Cart.switch_setRom c m rfl

theorem Cart.selectSlot2_setRom : ({ c with rom := m } : Cart).selectSlot2 n = { c.selectSlot2 n with rom := m } :=
  Cart.switch_setRom c m rfl

theorem Cart.selectRamBank_setRom : ({ c with rom := m } : Cart).selectRamBank n = { c.selectRamBank n with rom := m } :=
  Cart.switch_setRom c m rfl

theorem Cart.rangeHotspot_setRom (first : Nat) :
    ({ c with rom := m } : Cart).rangeHotspot first n = { c.rangeHotspot first n with rom := m } := by
  unfold Cart.rangeHotspot
  rw [Cart.bank_setRom]
  simp only [apply_ite (fun d : Cart => { d with rom := m })]
  rfl

theorem Cart.e0Hotspot_setRom : ({ c with rom := m } : Cart).e0Hotspot n = { c.e0Hotspot n with rom := m } := by
  unfold Cart.e0Hotspot
  rw [Cart.bank_setRom, Cart.selectSlot1_setRom, Cart.selectSlot2_setRom]
  simp only [apply_ite (fun d : Cart => { d with rom := m })]

theorem Cart.e7Hotspot_setRom : ({ c with rom := m } : Cart).e7Hotspot n = { c.e7Hotspot n with rom := m } := by
  unfold Cart.e7Hotspot
  rw [Cart.bank_setRom, Cart.selectRamBank_setRom]
  simp only [apply_ite (fun d : Cart => { d with rom := m })]

/-- A hotspot switches by the bank registers, not by the image. -/
theorem Cart.hotspot_setRom : ({ c with rom := m } : Cart).hotspot n = { c.hotspot n with rom := m } := by
  obtain ⟨variant⟩ := c
  cases variant
  case f8 | f6 | f4 | f8sc | f6sc | f4sc => exact Cart.rangeHotspot_setRom _ m n _
  case e0 => exact Cart.e0Hotspot_setRom _ m n
  case e7 => exact Cart.e7Hotspot_setRom _ m n
  all_goals rfl

end SetRom

theorem State.patch_low {p : Word} (h : p.getLsbD 12 = false) (v : Byte) (s : State) : s.patch p v = (false, s) := by
  rw [State.patch, busAddr_getLsbD (by decide), h]
  rfl

theorem State.patch_rom {s : State} {p : Word} (h : p.getLsbD 12 = true) {k : Nat}
    (hc : s.sys.cart.cell (p.toNat % 4096) = .rom k) (v : Byte) :
    s.patch p v = (true, s.setSys (s.sys.setCart { s.sys.cart with rom := s.sys.cart.rom.write k v })) := by
  simp only [State.patch, busAddr_getLsbD (show 12 < 13 by decide), h, if_true, Cart.patch, windowOffset_busAddr, hc]

/-- A peek of the window at no hotspot reads the ROM byte the mapping names. -/
theorem System.peek_rom {y : System} (hd : y.devices = attachOrder) {p : Word} (h : p.getLsbD 12 = true) {k : Nat}
    (hh : y.cart.hotspot (p.toNat % 4096) = y.cart) (hc : y.cart.cell (p.toNat % 4096) = .rom k) :
    (y.peek p).1 = y.cart.rom.read k := by
  have h12 : (busAddr p).getLsbD 12 = true := (busAddr_getLsbD (by decide) p).trans h
  rw [← windowOffset_busAddr] at hh hc
  rw [System.peek, System.fetchByte_window h12 hd, System.cartPeek_rom h12 (by rw [hh]; exact hc)]

/-- Settles O59: the patched cartridge maps and switches as before, so a read there finds the byte written. -/
theorem patchWritesMappedByte : Obligations.PatchWritesMappedByte := by
  intro s p v
  refine ⟨fun h => State.patch_low h v s, fun h k hc => ?_⟩
  rw [State.patch_rom h hc]
  refine ⟨rfl, rfl, fun hi hh => ?_⟩
  obtain ⟨-, -, hd, -, hwf, -⟩ := (System.inv_iff s.sys).1 hi
  have hrom : Memory.wf s.sys.cart.romSize s.sys.cart.rom = true := ((Cart.wf_iff _).1 hwf).2.1
  refine (System.peek_rom (y := s.sys.setCart { s.sys.cart with rom := s.sys.cart.rom.write k v }) hd h ?_ hc).trans ?_
  · exact (Cart.hotspot_setRom _ _ _).trans (by rw [hh]; rfl)
  · exact (Memory.read_write_wf hrom k k v).trans (if_pos rfl)

end Sys2Proof.Machine
end

section
/-! The encoding: what the decoder answers, case by case; the opcode map against the encoder, in both directions; and the
illegal bytes (30_encoding.md R140, R141, R154, R155). -/

namespace Sys2Proof

/-! ## What the decoder answers -/

theorem decode_cons_eq_ok_iff {op : Byte} {bytes rest : List Byte} {i : Instr} :
    decode (op :: bytes) = .ok (i, rest) ↔
      instrOf op (bytes.getD 0 0) (bytes.getD 1 0) = some i ∧ i.operand.bytes.length ≤ bytes.length
        ∧ bytes.drop i.operand.bytes.length = rest := by
  rw [decode]
  cases instrOf op (bytes.getD 0 0) (bytes.getD 1 0) with
  | none => simp
  | some j =>
    by_cases hlen : bytes.length < j.operand.bytes.length
    · simp only [if_pos hlen, reduceCtorEq, Option.some.injEq, false_iff]
      rintro ⟨rfl, hle, -⟩
      omega
    · simp only [if_neg hlen, Except.ok.injEq, Prod.mk.injEq, Option.some.injEq]
      refine and_congr_right ?_
      rintro rfl
      exact (and_iff_right (by omega)).symm

theorem decode_cons_eq_illegal_iff {op : Byte} {bytes : List Byte} :
    decode (op :: bytes) = .error (.illegalOpcode op) ↔ instrOf op (bytes.getD 0 0) (bytes.getD 1 0) = none := by
  rw [decode]
  cases instrOf op (bytes.getD 0 0) (bytes.getD 1 0) with
  | none => simp
  | some j =>
    by_cases hlen : bytes.length < j.operand.bytes.length <;> simp [hlen]

/-! ## From an instruction to its row of the opcode map -/

/-- Every instruction has its row in the opcode map. -/
theorem Laws.EncodedForm.all : ∀ i : Instr, EncodedForm.Statement i
  | .ldaImm v => ldaImm v
  | .ldaZp z => ldaZp z
  | .ldaZpX z => ldaZpX z
  | .ldaAbs a => ldaAbs a
  | .ldaAbsX a => ldaAbsX a
  | .ldaAbsY a => ldaAbsY a
  | .ldaIndX z => ldaIndX z
  | .ldaIndY z => ldaIndY z
  | .ldxImm v => ldxImm v
  | .ldxZp z => ldxZp z
  | .ldxZpY z => ldxZpY z
  | .ldxAbs a => ldxAbs a
  | .ldxAbsY a => ldxAbsY a
  | .ldyImm v => ldyImm v
  | .ldyZp z => ldyZp z
  | .ldyZpX z => ldyZpX z
  | .ldyAbs a => ldyAbs a
  | .ldyAbsX a => ldyAbsX a
  | .staZp z => staZp z
  | .staZpX z => staZpX z
  | .staAbs a => staAbs a
  | .staAbsX a => staAbsX a
  | .staAbsY a => staAbsY a
  | .staIndX z => staIndX z
  | .staIndY z => staIndY z
  | .stxZp z => stxZp z
  | .stxZpY z => stxZpY z
  | .stxAbs a => stxAbs a
  | .styZp z => styZp z
  | .styZpX z => styZpX z
  | .styAbs a => styAbs a
  | .tax => tax
  | .tay => tay
  | .txa => txa
  | .tya => tya
  | .tsx => tsx
  | .txs => txs
  | .pha => pha
  | .php => php
  | .pla => pla
  | .plp => plp
  | .adcImm v => adcImm v
  | .adcZp z => adcZp z
  | .adcZpX z => adcZpX z
  | .adcAbs a => adcAbs a
  | .adcAbsX a => adcAbsX a
  | .adcAbsY a => adcAbsY a
  | .adcIndX z => adcIndX z
  | .adcIndY z => adcIndY z
  | .sbcImm v => sbcImm v
  | .sbcZp z => sbcZp z
  | .sbcZpX z => sbcZpX z
  | .sbcAbs a => sbcAbs a
  | .sbcAbsX a => sbcAbsX a
  | .sbcAbsY a => sbcAbsY a
  | .sbcIndX z => sbcIndX z
  | .sbcIndY z => sbcIndY z
  | .andImm v => andImm v
  | .andZp z => andZp z
  | .andZpX z => andZpX z
  | .andAbs a => andAbs a
  | .andAbsX a => andAbsX a
  | .andAbsY a => andAbsY a
  | .andIndX z => andIndX z
  | .andIndY z => andIndY z
  | .oraImm v => oraImm v
  | .oraZp z => oraZp z
  | .oraZpX z => oraZpX z
  | .oraAbs a => oraAbs a
  | .oraAbsX a => oraAbsX a
  | .oraAbsY a => oraAbsY a
  | .oraIndX z => oraIndX z
  | .oraIndY z => oraIndY z
  | .eorImm v => eorImm v
  | .eorZp z => eorZp z
  | .eorZpX z => eorZpX z
  | .eorAbs a => eorAbs a
  | .eorAbsX a => eorAbsX a
  | .eorAbsY a => eorAbsY a
  | .eorIndX z => eorIndX z
  | .eorIndY z => eorIndY z
  | .cmpImm v => cmpImm v
  | .cmpZp z => cmpZp z
  | .cmpZpX z => cmpZpX z
  | .cmpAbs a => cmpAbs a
  | .cmpAbsX a => cmpAbsX a
  | .cmpAbsY a => cmpAbsY a
  | .cmpIndX z => cmpIndX z
  | .cmpIndY z => cmpIndY z
  | .cpxImm v => cpxImm v
  | .cpxZp z => cpxZp z
  | .cpxAbs a => cpxAbs a
  | .cpyImm v => cpyImm v
  | .cpyZp z => cpyZp z
  | .cpyAbs a => cpyAbs a
  | .bitZp z => bitZp z
  | .bitAbs a => bitAbs a
  | .incZp z => incZp z
  | .incZpX z => incZpX z
  | .incAbs a => incAbs a
  | .incAbsX a => incAbsX a
  | .decZp z => decZp z
  | .decZpX z => decZpX z
  | .decAbs a => decAbs a
  | .decAbsX a => decAbsX a
  | .inx => inx
  | .iny => iny
  | .dex => dex
  | .dey => dey
  | .aslAcc => aslAcc
  | .aslZp z => aslZp z
  | .aslZpX z => aslZpX z
  | .aslAbs a => aslAbs a
  | .aslAbsX a => aslAbsX a
  | .lsrAcc => lsrAcc
  | .lsrZp z => lsrZp z
  | .lsrZpX z => lsrZpX z
  | .lsrAbs a => lsrAbs a
  | .lsrAbsX a => lsrAbsX a
  | .rolAcc => rolAcc
  | .rolZp z => rolZp z
  | .rolZpX z => rolZpX z
  | .rolAbs a => rolAbs a
  | .rolAbsX a => rolAbsX a
  | .rorAcc => rorAcc
  | .rorZp z => rorZp z
  | .rorZpX z => rorZpX z
  | .rorAbs a => rorAbs a
  | .rorAbsX a => rorAbsX a
  | .bcc d => bcc d
  | .bcs d => bcs d
  | .beq d => beq d
  | .bmi d => bmi d
  | .bne d => bne d
  | .bpl d => bpl d
  | .bvc d => bvc d
  | .bvs d => bvs d
  | .jmpAbs a => jmpAbs a
  | .jmpInd p => jmpInd p
  | .jsr lo => jsr lo
  | .rts => rts
  | .brk => brk
  | .rti => rti
  | .nop => nop
  | .clc => clc
  | .cld => cld
  | .cli => cli
  | .clv => clv
  | .sec => sec
  | .sed => sed
  | .sei => sei
/-- Settles O3: the opcode names the row and the operand bytes the operand, so nothing is left but the bytes that follow. -/
theorem decodeEncodeRoundTrip : Obligations.DecodeEncodeRoundTrip := by
  intro i rest hwf
  obtain ⟨-, -, hrow⟩ := Laws.EncodedForm.all i
  exact decode_cons_eq_ok_iff.2 ⟨hrow hwf rest, by simp, by simp⟩

/-! ## From a row of the opcode map to its instruction -/

/-- `i` is what opcode `op` stands for with its operand bytes at the front of `b1`, `b2`. -/
structure ReadFrom (op b1 b2 : Byte) (i : Instr) : Prop where
  opcode : i.opcode = op
  wf : i.wf = true
  bytes : i.operand.bytes <+: [b1, b2]

/-- Row by row: a word's bytes are those it was put together from, and a displacement is a byte's value. -/
theorem instrOf_readFrom {op b1 b2 : Byte} {i : Instr} (h : instrOf op b1 b2 = some i) : ReadFrom op b1 b2 i := by
  unfold instrOf at h
  split at h
  case h_152 => cases h
  all_goals
    next hop =>
    cases h
    refine ⟨BitVec.eq_of_toNat_eq hop.symm, ?_, ?_⟩
    · simp only [Instr.wf, relInRange_toInt]
    · simp [Instr.operand, Operand.bytes, MemOperand.bytes, wordBytes]

/-- Operand bytes that a list is long enough to hold are at its front, whatever stands for the bytes it does not have. -/
theorem operandBytes_front {os bytes : List Byte} (h : os <+: [bytes.getD 0 0, bytes.getD 1 0])
    (hlen : os.length ≤ bytes.length) : os <+: bytes := by
  rw [← List.take_of_length_le hlen]
  refine (h.take bytes.length).trans ?_
  match bytes with
  | [] => exact ⟨[], rfl⟩
  | [b] => exact ⟨[], rfl⟩
  | b :: c :: bs => exact ⟨bs, by simp⟩

/-- Settles O4: the map reads the operand from the bytes after the opcode, and the decoder drops exactly those. -/
theorem decodedBytesReencode : Obligations.DecodedBytesReencode := by
  rintro (_ | ⟨op, bytes⟩) i rest h
  · cases h
  · obtain ⟨hrow, hlen, rfl⟩ := decode_cons_eq_ok_iff.1 h
    obtain ⟨rfl, hwf, hfront⟩ := instrOf_readFrom hrow
    obtain ⟨more, rfl⟩ := operandBytes_front hfront hlen
    exact ⟨hwf, by simp [encode]⟩

/-- The map against the grid of 30_encoding.md R154, in each of the 256 cells. -/
theorem instrOf_map_eq_gridCell :
    ∀ op : Byte, (instrOf op 0 0).map (fun i => (i.mnemonic, i.mode)) = Machine.gridCell op := by
  decide

/-- Settles O1: the cells, and the opcode each row was read from. -/
theorem opcodeMapIsTheGrid : Obligations.OpcodeMapIsTheGrid :=
  fun op => ⟨instrOf_map_eq_gridCell op, fun _ h => (instrOf_readFrom h).opcode⟩

/-- Settles O2: each word is its instruction's encoding, JSR's followed by the byte left undecoded. -/
theorem specWordsDecode : Obligations.SpecWordsDecode := by
  have dec {bytes rest : List Byte} {i : Instr} (h : bytes = encode i ++ rest) (hwf : i.wf = true) :
      decode bytes = .ok (i, rest) := h ▸ decodeEncodeRoundTrip i rest hwf
  exact ⟨dec rfl rfl, dec rfl rfl, dec rfl rfl, dec rfl rfl, dec rfl rfl, dec rfl rfl, dec rfl rfl, dec rfl rfl,
    dec rfl rfl, dec (by decide) rfl, dec rfl rfl, dec rfl rfl, dec rfl rfl, dec rfl rfl⟩

/-! ## Illegal bytes and lengths -/

/-- An opcode that has a row has one whatever the operand bytes. -/
theorem legalOpcode_of_instrOf {op b1 b2 : Byte} {i : Instr} (h : instrOf op b1 b2 = some i) : legalOpcode op = true := by
  obtain ⟨hmode, -, -⟩ := Laws.EncodedForm.all i
  rw [(instrOf_readFrom h).opcode] at hmode
  obtain ⟨j, hj, -⟩ := Option.map_eq_some_iff.1 hmode
  exact Option.isSome_of_eq_some hj

/-- The bytes R155 lists are the empty cells of the grid. -/
theorem mem_illegalOpcodes_iff : ∀ op : Byte, op ∈ Machine.illegalOpcodes ↔ Machine.gridCell op = none := by
  decide

theorem legalOpcode_eq_false_iff (op : Byte) : legalOpcode op = false ↔ Machine.gridCell op = none := by
  rw [← instrOf_map_eq_gridCell, Option.map_eq_none_iff, legalOpcode, Option.isSome_eq_false_iff, Option.isNone_iff_eq_none]

theorem decode_illegal_iff (op : Byte) :
    (∀ rest, decode (op :: rest) = .error (.illegalOpcode op)) ↔ legalOpcode op = false := by
  simp only [decode_cons_eq_illegal_iff]
  constructor
  · exact fun h => Option.isSome_eq_false_iff.2 (Option.isNone_iff_eq_none.2 (h []))
  · refine fun h rest => Option.eq_none_iff_forall_ne_some.2 fun i hi => ?_
    rw [legalOpcode_of_instrOf hi] at h
    cases h

theorem Instr.mnemonic_eq_jsr_iff (i : Instr) : i.mnemonic = .JSR ↔ ∃ lo, i.operand = .targetLow lo := by
  cases i <;> simp [Instr.mnemonic, Instr.operand]

theorem MemOperand.bytes_length (m : MemOperand) : m.bytes.length + 1 = m.mode.length := by
  cases m <;> rfl

/-- All of an operand's bytes are fetched first, but for JSR's (42_control_flags.md R269). -/
theorem Operand.bytes_length {o : Operand} (h : ∀ lo, o ≠ .targetLow lo) : o.bytes.length + 1 = o.mode.length := by
  cases o with
  | src o =>
    cases o with
    | imm v => rfl
    | mem m => exact m.bytes_length
  | targetLow lo => exact absurd rfl (h lo)
  | implied | acc | target a | ind p | rel d => rfl

theorem encode_length (i : Instr) : (encode i).length + (if i.mnemonic = .JSR then 1 else 0) = i.mode.length := by
  by_cases hjsr : i.mnemonic = .JSR
  · obtain ⟨lo, ho⟩ := i.mnemonic_eq_jsr_iff.1 hjsr
    rw [if_pos hjsr, encode, Instr.mode, ho]
    rfl
  · rw [if_neg hjsr]
    exact Operand.bytes_length fun lo ho => hjsr (i.mnemonic_eq_jsr_iff.2 ⟨lo, ho⟩)

/-- The lengths of 30_encoding.md R141. -/
theorem Mode.length_eq (m : Mode) :
    m.length = if m = .Impl then 1 else if m ∈ [.Abs, .AbsX, .AbsY, .Ind] then 3 else 2 := by
  cases m <;> rfl

/-- Settles O5: an illegal byte has no row whatever follows it, and an instruction's length is its mode's. -/
theorem illegalOpcodesAndLengths : Obligations.IllegalOpcodesAndLengths :=
  ⟨fun op => (mem_illegalOpcodes_iff op).trans ((decode_illegal_iff op).trans (legalOpcode_eq_false_iff op)).symm,
    fun i => (encode_length i).trans i.mode.length_eq⟩

end Sys2Proof
end

section
/-! Effective addresses (30_encoding.md R145 to R151). -/

namespace Sys2Proof.Machine

theorem State.indexed_fst (c : AccessClass) (base : Word) (index : Byte) (s : State) :
    (s.indexed c base index).1 = base + index.setWidth 16 := by
  cases c <;> rfl

theorem State.zeroPagePointer_fst (z : Byte) (s : State) :
    (s.zeroPagePointer z).1 =
      ((s.read (z.setWidth 16)).2.read ((z + 1).setWidth 16)).1.setWidth 16 <<< 8
        ||| (s.read (z.setWidth 16)).1.setWidth 16 := by
  simp only [State.zeroPagePointer, zeroPage_eq, wordOf_eq_or]

/-- Settles O17: a zero-page address is its byte, an indexed one wraps where the index is added, a pointer is two reads. -/
theorem effectiveAddresses : Obligations.EffectiveAddresses := by
  intro c s z a
  refine ⟨zeroPage_eq z, zeroPage_eq _, zeroPage_eq _, rfl, s.indexed_fst c a s.x, s.indexed_fst c a s.y,
    s.idle.zeroPagePointer_fst _, ?_, fun m => rfl, fun v => rfl⟩
  exact (State.indexed_fst c _ s.y _).trans (congrArg (· + _) (s.zeroPagePointer_fst z))

end Sys2Proof.Machine
end

section
/-! Loads, stores, register transfers and the stack instructions (40_load_store_transfer.md R200 to R215). -/

namespace Sys2Proof.Machine

/-- A run of accesses keeps all bytes but its own, and the steady fields. -/
theorem System.Run.kept {n : Nat} {ls : List Loc} {y z : System} (h : System.Run n ls y z) : System.Kept ls y z :=
  ⟨h.bytes, h.steady⟩

/-! ## The meaning of a load or store mnemonic, whatever its operand -/

section Meaning
variable {i : Instr} {s : State}

theorem exec_of_lda {o : Source} (hm : i.mnemonic = .LDA) (ho : i.operand = .src o) : exec i s = .next (s.loadA o) := by
  cases i with
  | ldaImm | ldaZp | ldaZpX | ldaAbs | ldaAbsX | ldaAbsY | ldaIndX | ldaIndY => cases ho; rfl
  | _ => cases hm

theorem exec_of_ldx {o : Source} (hm : i.mnemonic = .LDX) (ho : i.operand = .src o) : exec i s = .next (s.loadX o) := by
  cases i with
  | ldxImm | ldxZp | ldxZpY | ldxAbs | ldxAbsY => cases ho; rfl
  | _ => cases hm

theorem exec_of_ldy {o : Source} (hm : i.mnemonic = .LDY) (ho : i.operand = .src o) : exec i s = .next (s.loadY o) := by
  cases i with
  | ldyImm | ldyZp | ldyZpX | ldyAbs | ldyAbsX => cases ho; rfl
  | _ => cases hm

theorem exec_of_sta {m : MemOperand} (hm : i.mnemonic = .STA) (ho : i.operand = .src (.mem m)) :
    exec i s = .next (s.store m s.a) := by
  cases i with
  | staZp | staZpX | staAbs | staAbsX | staAbsY | staIndX | staIndY => cases ho; rfl
  | _ => cases hm

theorem exec_of_stx {m : MemOperand} (hm : i.mnemonic = .STX) (ho : i.operand = .src (.mem m)) :
    exec i s = .next (s.store m s.x) := by
  cases i with
  | stxZp | stxZpY | stxAbs => cases ho; rfl
  | _ => cases hm

theorem exec_of_sty {m : MemOperand} (hm : i.mnemonic = .STY) (ho : i.operand = .src (.mem m)) :
    exec i s = .next (s.store m s.y) := by
  cases i with
  | styZp | styZpX | styAbs => cases ho; rfl
  | _ => cases hm

end Meaning

/-! ## Loads -/

theorem State.loadA_eq (o : Source) (s : State) : s.loadA o =
    { s with
      a := (s.readSource o).1
      flags := s.flags.setNZ (s.readSource o).1
      lastAccessWasRead := (s.readSource o).2.lastAccessWasRead
      sys := (s.readSource o).2.sys } :=
  congrArg (fun t : State => (t.setA (s.readSource o).1).setNZ (s.readSource o).1) (s.readSource_state o).eq

theorem State.loadX_eq (o : Source) (s : State) : s.loadX o =
    { s with
      x := (s.readSource o).1
      flags := s.flags.setNZ (s.readSource o).1
      lastAccessWasRead := (s.readSource o).2.lastAccessWasRead
      sys := (s.readSource o).2.sys } :=
  congrArg (fun t : State => (t.setX (s.readSource o).1).setNZ (s.readSource o).1) (s.readSource_state o).eq

theorem State.loadY_eq (o : Source) (s : State) : s.loadY o =
    { s with
      y := (s.readSource o).1
      flags := s.flags.setNZ (s.readSource o).1
      lastAccessWasRead := (s.readSource o).2.lastAccessWasRead
      sys := (s.readSource o).2.sys } :=
  congrArg (fun t : State => (t.setY (s.readSource o).1).setNZ (s.readSource o).1) (s.readSource_state o).eq

/-- Settles O18: a load reads its operand, which keeps every register, and sets its register, N and Z. -/
theorem loadInstructions : Obligations.LoadInstructions := by
  intro i o s ho
  refine ⟨fun hm => ?lda, fun hm => ?ldx, fun hm => ?ldy, (s.readSource_run o).kept⟩
  case lda => exact (exec_of_lda hm ho).trans (congrArg _ (s.loadA_eq o))
  case ldx => exact (exec_of_ldx hm ho).trans (congrArg _ (s.loadX_eq o))
  case ldy => exact (exec_of_ldy hm ho).trans (congrArg _ (s.loadY_eq o))

/-! ## Stores -/

theorem State.store_eq (m : MemOperand) (v : Byte) (s : State) : s.store m v =
    { s with
      lastAccessWasRead := false
      sys := (s.effectiveAddress .write m).2.sys.tick.poke (s.effectiveAddress .write m).1 v } :=
  (s.store_state m v).eq

/-- A store leaves its byte at its effective address. -/
theorem State.store_byteAt {s : State} (h : s.inv = true) {m : MemOperand} {l : Loc} (hl : l ∈ s.storePlaces m) (v : Byte) :
    (s.store m v).sys.byteAt l = v :=
  State.write_byteAt ((s.effectiveAddress_run .write m).inv h) hl v

/-- Settles O19: a store is one write at its effective address, and forming the address keeps the registers and all bytes. -/
theorem storeInstructions : Obligations.StoreInstructions := by
  intro i m s ho ea v hv y
  have hexec : exec i s = .next (s.store m v) := by
    obtain ⟨hm, rfl⟩ | ⟨hm, rfl⟩ | ⟨hm, rfl⟩ := hv
    · exact exec_of_sta hm ho
    · exact exec_of_stx hm ho
    · exact exec_of_sty hm ho
  exact ⟨hexec.trans (congrArg _ (s.store_eq m v)), (s.store_run m v).kept, System.poke_dataBus _ _ _,
    fun hi l hl => State.store_byteAt hi hl v⟩

/-! ## Stack -/

theorem State.push_eq (v : Byte) (s : State) : s.push v =
    { s with
      sp := s.sp - 1
      lastAccessWasRead := false
      sys := s.sys.tick.poke (stackAddr s.sp) v } := by
  rw [State.push, (s.write_state (stackAddr s.sp) v).eq]
  rfl

theorem State.pull_eq (s : State) : s.pull =
    ((s.sys.tick.peek (stackAddr (s.sp + 1))).1,
      { s with
        sp := s.sp + 1
        lastAccessWasRead := true
        sys := (s.sys.tick.peek (stackAddr (s.sp + 1))).2 }) := by
  rw [State.pull, State.read, State.cpuPeek]
  rfl

/-- A cycle moves none of the stack's places. -/
theorem State.idle_writePlaces_stack (s : State) (p : Byte) :
    s.idle.writePlaces (stackAddr p) = s.writePlaces (stackAddr p) :=
  State.writePlaces_stack (.tick s.sys) p

theorem State.idle_push_run (v : Byte) (s : State) :
    System.Run 2 (s.writePlaces (stackAddr s.sp)) s.sys (s.idle.push v).sys :=
  s.idle_run.trans' (s.idle.write_run (stackAddr s.sp) v) rfl (s.idle_writePlaces_stack s.sp)

/-- Settles O21: both instructions push after a cycle. -/
theorem pushInstructions : Obligations.PushInstructions := by
  intro s i v hv y
  have hexec : exec i s = .next (s.idle.push v) := by
    obtain ⟨rfl, rfl⟩ | ⟨rfl, rfl⟩ := hv
    · rfl
    · rfl
  refine ⟨hexec.trans (congrArg _ (s.idle.push_eq v)), (s.idle_push_run v).kept, fun hi l hl => ?_⟩
  rw [← s.idle_writePlaces_stack] at hl
  exact State.push_byteAt (s := s.idle) hi hl v

/-- Settles O22: both instructions pull after two cycles, and a pull disturbs no byte. -/
theorem pullInstructions : Obligations.PullInstructions := by
  intro s r
  have hpull := s.idle.idle.pull_eq
  refine ⟨?pla, ?plp, s.pla_run.kept⟩
  case pla => exact congrArg (fun p : Byte × State => Host.Outcome.next ((p.2.setA p.1).setNZ p.1)) hpull
  case plp => exact congrArg (fun p : Byte × State => Host.Outcome.next (p.2.setFlags (Flags.ofByte p.1))) hpull

/-! ## Register transfers -/

/-- Settles O20: each transfer is a cycle and a copy, so its encoding, cost and next state are definitional. -/
theorem registerTransfers : Obligations.RegisterTransfers :=
  fun _ => ⟨⟨rfl, rfl, rfl⟩, ⟨rfl, rfl, rfl⟩, ⟨rfl, rfl, rfl⟩, ⟨rfl, rfl, rfl⟩, ⟨rfl, rfl, rfl⟩, ⟨rfl, rfl, rfl⟩⟩

end Sys2Proof.Machine
end

section
/-! Arithmetic, logic, compare, increment, decrement and shifts (41_arith_logic_shift.md R220 to R248). -/

namespace Sys2Proof.Machine

/-! ## The meaning of a mnemonic, whatever its operand -/

/-- The state after an arithmetic, logic, compare or bit test mnemonic with operand `o`. -/
def sourceEffect (o : Source) (s : State) : Mnemonic → Option State
  | .ADC => some (s.adc o)
  | .SBC => some (s.sbc o)
  | .AND => some (s.andA o)
  | .ORA => some (s.oraA o)
  | .EOR => some (s.eorA o)
  | .CMP => some (s.compare s.a o)
  | .CPX => some (s.compare s.x o)
  | .CPY => some (s.compare s.y o)
  | .BIT => some (s.bitTest o)
  | _ => none

theorem exec_of_sourceEffect {i : Instr} {n : Mnemonic} {o : Source} {s t : State} (hm : i.mnemonic = n)
    (ho : i.operand = .src o) (ht : sourceEffect o s n = some t) : exec i s = .next t := by
  subst hm
  cases i with
  | adcImm | adcZp | adcZpX | adcAbs | adcAbsX | adcAbsY | adcIndX | adcIndY
  | sbcImm | sbcZp | sbcZpX | sbcAbs | sbcAbsX | sbcAbsY | sbcIndX | sbcIndY
  | andImm | andZp | andZpX | andAbs | andAbsX | andAbsY | andIndX | andIndY
  | oraImm | oraZp | oraZpX | oraAbs | oraAbsX | oraAbsY | oraIndX | oraIndY
  | eorImm | eorZp | eorZpX | eorAbs | eorAbsX | eorAbsY | eorIndX | eorIndY
  | cmpImm | cmpZp | cmpZpX | cmpAbs | cmpAbsX | cmpAbsY | cmpIndX | cmpIndY
  | cpxImm | cpxZp | cpxAbs | cpyImm | cpyZp | cpyAbs | bitZp | bitAbs => cases ho; cases ht; rfl
  | _ => cases ht

/-- The byte written and the flags after a shift or rotate with result and carry out `r`. -/
def withNZC (f : Flags) (r : Byte × Bool) : Byte × Flags := (r.1, f.setNZC r.1 r.2)

/-- The function of the byte read with which an increment, decrement, shift or rotate mnemonic modifies memory: the byte
written and the flags. -/
def modifyEffect (f : Flags) : Mnemonic → Option (Byte → Byte × Flags)
  | .INC => some fun v => (v + 1, f.setNZ (v + 1))
  | .DEC => some fun v => (v - 1, f.setNZ (v - 1))
  | .ASL => some fun v => withNZC f (shiftLeft v f.c)
  | .LSR => some fun v => withNZC f (shiftRight v f.c)
  | .ROL => some fun v => withNZC f (rotateLeft v f.c)
  | .ROR => some fun v => withNZC f (rotateRight v f.c)
  | _ => none

theorem exec_of_modifyEffect {i : Instr} {n : Mnemonic} {m : MemOperand} {s : State} {g : Byte → Byte × Flags}
    (hm : i.mnemonic = n) (ho : i.operand = .src (.mem m)) (hg : modifyEffect s.flags n = some g) :
    exec i s = .next (s.modify m g) := by
  subst hm
  cases i with
  | incZp | incZpX | incAbs | incAbsX | decZp | decZpX | decAbs | decAbsX
  | aslZp | aslZpX | aslAbs | aslAbsX | lsrZp | lsrZpX | lsrAbs | lsrAbsX
  | rolZp | rolZpX | rolAbs | rolAbsX | rorZp | rorZpX | rorAbs | rorAbsX => cases ho; cases hg; rfl
  | aslAcc | lsrAcc | rolAcc | rorAcc => cases ho
  | _ => cases hg

/-! ## Registers through an operand access -/

/-- Setting the flags after an access that keeps the registers. -/
theorem State.SameRegisters.setFlags_eq {s t : State} (h : s.SameRegisters t) (f : Flags) :
    t.setFlags f = { s with flags := f, lastAccessWasRead := t.lastAccessWasRead, sys := t.sys } :=
  congrArg (State.setFlags f) h.eq

/-- Setting A and the flags after an access that keeps the registers. -/
theorem State.SameRegisters.setA_setFlags_eq {s t : State} (h : s.SameRegisters t) (v : Byte) (f : Flags) :
    (t.setA v).setFlags f = { s with a := v, flags := f, lastAccessWasRead := t.lastAccessWasRead, sys := t.sys } :=
  congrArg (fun u : State => (u.setA v).setFlags f) h.eq

/-- Setting A with its N and Z after an access that keeps the registers. -/
theorem State.SameRegisters.setA_setNZ_eq {s t : State} (h : s.SameRegisters t) (v : Byte) :
    (t.setA v).setNZ v =
      { s with a := v, flags := s.flags.setNZ v, lastAccessWasRead := t.lastAccessWasRead, sys := t.sys } :=
  congrArg (fun u : State => (u.setA v).setNZ v) h.eq

theorem State.SameRegisters.setSys {s t : State} (h : s.SameRegisters t) (y : System) : s.SameRegisters (t.setSys y) :=
  ⟨h.a, h.x, h.y, h.sp, h.pc, h.ir, h.flags, h.count⟩

/-! ## Binary addition and subtraction (R221, R222) -/

theorem carryNat_le_one (c : Bool) : carryNat c ≤ 1 := by cases c <;> decide

theorem carryNat_cast (c : Bool) : (carryNat c : Int) = if c then 1 else 0 := Nat.cast_ite ..

/-- ADC with D clear: A and the flags of `adcBinary`. -/
theorem State.adc_binary {s : State} (hd : s.flags.d = false) (o : Source) : s.adc o =
    { s with
      a := (adcBinary s.a (s.readSource o).1 s.flags).1
      flags := (adcBinary s.a (s.readSource o).1 s.flags).2
      lastAccessWasRead := (s.readSource o).2.lastAccessWasRead
      sys := (s.readSource o).2.sys } := by
  rw [← (s.readSource_state o).setA_setFlags_eq]
  simp only [State.adc, hd, Bool.false_eq_true, if_false]

/-- SBC with D clear: A and the flags of `sbcBinary`. -/
theorem State.sbc_binary {s : State} (hd : s.flags.d = false) (o : Source) : s.sbc o =
    { s with
      a := (sbcBinary s.a (s.readSource o).1 s.flags).1
      flags := (sbcBinary s.a (s.readSource o).1 s.flags).2
      lastAccessWasRead := (s.readSource o).2.lastAccessWasRead
      sys := (s.readSource o).2.sys } := by
  rw [← (s.readSource_state o).setA_setFlags_eq]
  simp only [State.sbc, hd, Bool.false_eq_true, if_false]

/-- The difference is the sum with the operand's complement, less 256. -/
theorem subDifference_eq_addSum_not (a m : Byte) (c : Bool) : subDifference a m c = (addSum a (~~~m) c : Int) - 256 := by
  have := m.isLt
  have hnot : (~~~m).toNat = 255 - m.toNat := BitVec.toNat_not
  simp only [subDifference, addSum, hnot]
  omega

theorem subResult_eq_addResult_not (a m : Byte) (c : Bool) :
    BitVec.ofInt 8 (subDifference a m c) = BitVec.ofNat 8 (addSum a (~~~m) c) := by
  apply BitVec.eq_of_toNat_eq
  rw [subDifference_eq_addSum_not, BitVec.toNat_ofInt, BitVec.toNat_ofNat]
  omega

theorem subDifference_nonneg_iff (a m : Byte) (c : Bool) : 0 ≤ subDifference a m c ↔ 0xFF < addSum a (~~~m) c := by
  rw [subDifference_eq_addSum_not]
  omega

/-- Settles O23: with D clear both instructions are their binary formulas, and a difference is a sum with the complement. -/
theorem binaryArithmetic : Obligations.BinaryArithmetic := by
  intro i o s ho hd m c sum r diff q next
  refine ⟨fun hm => ?adc, fun hm => ⟨?sbc, ?complement, ?carry⟩, (s.readSource_run o).kept⟩
  case adc => exact (exec_of_sourceEffect hm ho rfl).trans (congrArg _ (State.adc_binary hd o))
  case sbc => exact (exec_of_sourceEffect hm ho rfl).trans (congrArg _ (State.sbc_binary hd o))
  case complement => exact subResult_eq_addResult_not s.a m.1 s.flags.c
  case carry => exact subDifference_nonneg_iff s.a m.1 s.flags.c

/-! ## Signed overflow (R220) -/

theorem and_0x80_ne_zero (v : Byte) : (v &&& 0x80 != 0) = v.msb := by
  rw [show (0x80 : Byte) = BitVec.twoPow 8 7 from rfl, BitVec.and_twoPow, BitVec.msb_eq_getLsbD_last]
  cases v.getLsbD 7 <;> rfl

/-- V of an addition: the operands' signs both differ from the result's. -/
theorem adcBinary_v (a m : Byte) (f : Flags) :
    (adcBinary a m f).2.v =
      ((a.msb ^^ (adcBinary a m f).1.msb) && (m.msb ^^ (adcBinary a m f).1.msb)) := by
  rw [← BitVec.msb_xor, ← BitVec.msb_xor, ← BitVec.msb_and, ← and_0x80_ne_zero]
  rfl

/-- A binary SBC is the binary ADC of the operand's complement, in the result and every flag (R222). -/
theorem sbcBinary_eq_adcBinary_not (a m : Byte) (f : Flags) : sbcBinary a m f = adcBinary a (~~~m) f := by
  have hv : ∀ r : Byte, ((a ^^^ m) &&& (a ^^^ r) &&& 0x80 != 0) = ((a ^^^ r) &&& (~~~m ^^^ r) &&& 0x80 != 0) := by
    intro r
    simp only [and_0x80_ne_zero, BitVec.msb_and, BitVec.msb_xor, BitVec.msb_not]
    cases a.msb <;> cases m.msb <;> cases r.msb <;> rfl
  simp only [sbcBinary, adcBinary, subResult_eq_addResult_not, subDifference_nonneg_iff, hv]

/-- The signs of an addition show whether the two's complement sum fits. -/
theorem adcBinary_v_iff (a m : Byte) (f : Flags) :
    (adcBinary a m f).2.v = true ↔
      a.toInt + m.toInt + carryNat f.c < -128 ∨ 127 < a.toInt + m.toInt + carryNat f.c := by
  have hr : (adcBinary a m f).1.toNat = (a.toNat + m.toNat + carryNat f.c) % 256 := BitVec.toNat_ofNat _ _
  have := carryNat_le_one f.c
  have := a.isLt
  have := m.isLt
  rw [adcBinary_v, BitVec.toInt_eq_toNat_cond, BitVec.toInt_eq_toNat_cond]
  simp only [BitVec.msb_eq_decide, hr, Bool.and_eq_true, bne_iff_ne, ne_eq, decide_eq_decide]
  omega

theorem toInt_not_byte (v : Byte) : (~~~v).toInt = -v.toInt - 1 := by
  have := v.isLt
  have hnot : (~~~v).toNat = 255 - v.toNat := BitVec.toNat_not
  rw [BitVec.toInt_eq_toNat_cond, BitVec.toInt_eq_toNat_cond, hnot]
  omega

/-- Settles O24: for SBC by the addition of the complement, whose two's complement value is `-m - 1`. -/
theorem overflowIsSignedOverflow : Obligations.OverflowIsSignedOverflow := by
  intro a m f c
  have hadd := adcBinary_v_iff a m f
  have hsub := adcBinary_v_iff a (~~~m) f
  rw [← sbcBinary_eq_adcBinary_not, toInt_not_byte] at hsub
  rw [carryNat_cast] at hadd hsub
  refine ⟨hadd, hsub.trans ?_⟩
  omega

/-! ## Decimal addition and subtraction (R223, R224) -/

/-- ADC with D set: A and C by the nibble rules, N, V and Z from one free byte. -/
theorem State.adc_decimal {s : State} (hd : s.flags.d = true) (o : Source) : s.adc o =
    { s with
      a := decimalAdd s.a (s.readSource o).1 s.flags.c
      flags := decimalFlags (decimalAddCarry s.a (s.readSource o).1 s.flags.c) (s.readSource o).2.sys.drawByte.1 s.flags
      lastAccessWasRead := (s.readSource o).2.lastAccessWasRead
      sys := (s.readSource o).2.sys.drawByte.2 } := by
  simp only [State.adc, hd, if_true]
  exact ((s.readSource_state o).setSys _).setA_setFlags_eq _ _

/-- SBC with D set: A by the nibble rules, C the binary borrow, N, V and Z from one free byte. -/
theorem State.sbc_decimal {s : State} (hd : s.flags.d = true) (o : Source) : s.sbc o =
    { s with
      a := decimalSub s.a (s.readSource o).1 s.flags.c
      flags := decimalFlags (decide (0 ≤ subDifference s.a (s.readSource o).1 s.flags.c))
        (s.readSource o).2.sys.drawByte.1 s.flags
      lastAccessWasRead := (s.readSource o).2.lastAccessWasRead
      sys := (s.readSource o).2.sys.drawByte.2 } := by
  simp only [State.sbc, hd, if_true]
  exact ((s.readSource_state o).setSys _).setA_setFlags_eq _ _

theorem and_0x0F_toNat (v : Byte) : (v &&& 0x0F).toNat = v.toNat % 16 := by
  rw [BitVec.toNat_and]
  exact Nat.and_two_pow_sub_one_eq_mod v.toNat 4

theorem shiftRight_4_toNat (v : Byte) : (v >>> 4).toNat = v.toNat / 16 := by
  rw [BitVec.toNat_ushiftRight]
  exact Nat.shiftRight_eq_div_pow v.toNat 4

/-- A digit of a decimal addition with its correction by 6 (R223). -/
def decimalCarry (digit : Nat) : Nat := if 9 < digit then digit + 6 else digit

theorem decimalAddLow_eq (a m : Byte) (c : Bool) :
    decimalAddLow a m c = decimalCarry (a.toNat % 16 + m.toNat % 16 + carryNat c) := rfl

theorem decimalAddHigh_eq (a m : Byte) (c : Bool) :
    decimalAddHigh a m c =
      decimalCarry (a.toNat / 16 + m.toNat / 16 + if 0x0F < decimalAddLow a m c then 1 else 0) := rfl

theorem decimalCarry_cast (digit : Nat) :
    (decimalCarry digit : Int) = if 9 < (digit : Int) then (digit : Int) + 6 else digit := by
  unfold decimalCarry
  split <;> omega

/-- Settles O25: the rules' integer digits are the model's, nibble by nibble. -/
theorem decimalArithmetic : Obligations.DecimalArithmetic := by
  intro i o s ho hd m c al ah ml mh lo hi0 hi bl lo' bh hi' next
  have hc : c = carryNat s.flags.c := (carryNat_cast s.flags.c).symm
  have hal : al = (s.a.toNat % 16 : Nat) := congrArg _ (and_0x0F_toNat s.a)
  have hml : ml = (m.1.toNat % 16 : Nat) := congrArg _ (and_0x0F_toNat m.1)
  have hah : ah = (s.a.toNat / 16 : Nat) := congrArg _ (shiftRight_4_toNat s.a)
  have hmh : mh = (m.1.toNat / 16 : Nat) := congrArg _ (shiftRight_4_toNat m.1)
  have hlo : lo = decimalAddLow s.a m.1 s.flags.c := by
    simp only [lo, hal, hml, hc, decimalAddLow_eq, decimalCarry_cast, Nat.cast_add]
  have hhi : hi = decimalAddHigh s.a m.1 s.flags.c := by
    simp only [hi, hi0, hlo, hah, hmh, decimalAddHigh_eq, decimalCarry_cast, Nat.cast_add, Nat.cast_ite,
      Nat.ofNat_lt_cast, Nat.cast_one, Nat.cast_zero]
  have hbl : bl = decimalSubLow s.a m.1 s.flags.c := by
    simp only [bl, hal, hml, hc, decimalSubLow]
  have hbh : bh = decimalSubHigh s.a m.1 s.flags.c := by
    simp only [bh, hbl, hah, hmh, decimalSubHigh]
  have hsum : BitVec.ofInt 8 (hi * 16 + lo % 16) = decimalAdd s.a m.1 s.flags.c := by
    rw [hhi, hlo]
    exact BitVec.ofInt_natCast 8 _
  have hcarry : decide (0x0F < hi) = decimalAddCarry s.a m.1 s.flags.c := by
    rw [hhi]
    exact decide_eq_decide.2 Nat.ofNat_lt_cast
  have hdiff : BitVec.ofInt 8 (hi' * 16 + lo' % 16) = decimalSub s.a m.1 s.flags.c := by
    simp only [hi', lo', hbh, hbl]
    rfl
  have hborrow : (s.a.toNat : Int) - m.1.toNat - (1 - c) = subDifference s.a m.1 s.flags.c := by
    rw [hc]
    rfl
  simp only [next, hsum, hcarry, hdiff, hborrow]
  refine ⟨fun hm => ?adc, fun hm => ?sbc, (s.readSource_run o).kept⟩
  case adc => exact ⟨_, _, _, (exec_of_sourceEffect hm ho rfl).trans (congrArg _ (State.adc_decimal hd o))⟩
  case sbc => exact ⟨_, _, _, (exec_of_sourceEffect hm ho rfl).trans (congrArg _ (State.sbc_decimal hd o))⟩

/-- The correction of a sum of two digits and a carry makes base 16 read as base 10. -/
theorem decimalCarry_digits {digit : Nat} (h : digit ≤ 19) :
    decimalCarry digit % 16 = digit % 10 ∧ (0x0F < decimalCarry digit ↔ 10 ≤ digit) := by
  unfold decimalCarry
  split <;> omega

/-- The correction of a difference of two digits and a borrow makes base 16 read as base 10. -/
theorem decimalBorrow_digits {digit : Int} (h : -10 ≤ digit ∧ digit ≤ 9) :
    decimalBorrow digit % 16 = digit % 10 := by
  unfold decimalBorrow
  split <;> omega

/-- The value of a byte of two decimal digits. -/
def decimalValue (v : Byte) : Nat := v.toNat / 16 * 10 + v.toNat % 16

theorem decimalSum_mod {x y u v k : Nat} (hy : y ≤ 9) (hv : v ≤ 9) (hk : k ≤ 1) :
    (x + u + if 10 ≤ y + v + k then 1 else 0) % 10 * 10 + (y + v + k) % 10 = (x * 10 + y + (u * 10 + v) + k) % 100 := by
  split <;> omega

theorem decimalSum_carry_iff {x y u v k : Nat} (hy : y ≤ 9) (hv : v ≤ 9) (hk : k ≤ 1) :
    (10 ≤ x + u + if 10 ≤ y + v + k then 1 else 0) ↔ 100 ≤ x * 10 + y + (u * 10 + v) + k := by
  split <;> omega

theorem decimalDifference_mod {x y u v k : Int} (hy : 0 ≤ y ∧ y ≤ 9) (hv : 0 ≤ v ∧ v ≤ 9) (hk : 0 ≤ k ∧ k ≤ 1) :
    (if y - v - (1 - k) < 0 then x - u - 1 else x - u) % 10 * 10 + (y - v - (1 - k)) % 10 =
      (x * 10 + y - (u * 10 + v) - (1 - k)) % 100 := by
  split <;> omega

/-- The digits of a decimal sum are its corrected digits, less their carries. -/
theorem decimalValue_decimalAdd (a m : Byte) (c : Bool) :
    decimalValue (decimalAdd a m c) = decimalAddHigh a m c % 16 * 10 + decimalAddLow a m c % 16 := by
  rw [decimalValue, decimalAdd, BitVec.toNat_ofNat]
  omega

/-- The digits of a decimal difference are its corrected digits, less their borrows. -/
theorem decimalValue_decimalSub (a m : Byte) (c : Bool) :
    (decimalValue (decimalSub a m c) : Int) =
      decimalBorrow (decimalSubHigh a m c) % 16 * 10 + decimalBorrow (decimalSubLow a m c) % 16 := by
  rw [decimalValue, decimalSub, BitVec.toNat_ofInt]
  omega

section Digits
variable {a m : Byte} (hal : a.toNat % 16 ≤ 9) (hah : a.toNat / 16 ≤ 9) (hml : m.toNat % 16 ≤ 9) (hmh : m.toNat / 16 ≤ 9)
include hal hml

theorem decimalAddLow_digits (c : Bool) :
    decimalAddLow a m c % 16 = (a.toNat % 16 + m.toNat % 16 + carryNat c) % 10
      ∧ (0x0F < decimalAddLow a m c ↔ 10 ≤ a.toNat % 16 + m.toNat % 16 + carryNat c) :=
  decimalCarry_digits (by have := carryNat_le_one c; omega)

theorem decimalSubLow_digits (c : Bool) : decimalBorrow (decimalSubLow a m c) % 16 = decimalSubLow a m c % 10 := by
  have := carryNat_le_one c
  exact decimalBorrow_digits (by simp only [decimalSubLow]; omega)

include hah hmh

theorem decimalAddHigh_digits (c : Bool) :
    decimalAddHigh a m c % 16 =
        (a.toNat / 16 + m.toNat / 16 + if 10 ≤ a.toNat % 16 + m.toNat % 16 + carryNat c then 1 else 0) % 10
      ∧ (0x0F < decimalAddHigh a m c ↔
        10 ≤ a.toNat / 16 + m.toNat / 16 + if 10 ≤ a.toNat % 16 + m.toNat % 16 + carryNat c then 1 else 0) := by
  simp only [decimalAddHigh_eq, (decimalAddLow_digits hal hml c).2]
  exact decimalCarry_digits (by split <;> omega)

omit hal hml in
theorem decimalSubHigh_digits (c : Bool) : decimalBorrow (decimalSubHigh a m c) % 16 = decimalSubHigh a m c % 10 :=
  decimalBorrow_digits (by simp only [decimalSubHigh]; split <;> omega)

theorem decimalAdd_digits (c : Bool) :
    decimalValue (decimalAdd a m c) = (decimalValue a + decimalValue m + carryNat c) % 100 := by
  rw [decimalValue_decimalAdd, (decimalAddLow_digits hal hml c).1, (decimalAddHigh_digits hal hah hml hmh c).1]
  exact decimalSum_mod hal hml (carryNat_le_one c)

theorem decimalAddCarry_digits (c : Bool) :
    decimalAddCarry a m c = true ↔ 100 ≤ decimalValue a + decimalValue m + carryNat c := by
  rw [decimalAddCarry, decide_eq_true_eq, (decimalAddHigh_digits hal hah hml hmh c).2]
  exact decimalSum_carry_iff hal hml (carryNat_le_one c)

theorem decimalSub_digits (c : Bool) :
    (decimalValue (decimalSub a m c) : Int) = ((decimalValue a : Int) - decimalValue m - (1 - carryNat c)) % 100 := by
  have := carryNat_le_one c
  rw [decimalValue_decimalSub, decimalSubLow_digits hal hml, decimalSubHigh_digits hah hmh]
  simp only [decimalValue, Nat.cast_add, Nat.cast_mul]
  exact decimalDifference_mod (by omega) (by omega) (by omega)

omit hah hmh in
/-- A binary difference borrows as the decimal one does. -/
theorem subDifference_nonneg_digits (c : Bool) :
    0 ≤ subDifference a m c ↔ decimalValue m + 1 ≤ decimalValue a + carryNat c := by
  have := carryNat_le_one c
  simp only [subDifference, decimalValue]
  omega

end Digits

/-- Settles O26: on digits each corrected nibble is its sum or difference modulo 10, its carry or borrow the decimal one. -/
theorem decimalResultsOnDigits : Obligations.DecimalResultsOnDigits :=
  fun _ _ c hal hah hml hmh =>
    ⟨decimalAdd_digits hal hah hml hmh c, decimalAddCarry_digits hal hah hml hmh c, decimalSub_digits hal hah hml hmh c,
      subDifference_nonneg_digits hal hml c⟩

/-! ## Logic, compare, bit test (R225, R232 to R238) -/

/-- Settles O27: each reads its operand, which keeps the registers, and sets A, N and Z. -/
theorem logicInstructions : Obligations.LogicInstructions := by
  intro i o s ho m next
  have hstate := s.readSource_state o
  refine ⟨fun hm => ?and, fun hm => ?ora, fun hm => ?eor, (s.readSource_run o).kept⟩
  case and => exact (exec_of_sourceEffect hm ho rfl).trans (congrArg _ (hstate.setA_setNZ_eq _))
  case ora => exact (exec_of_sourceEffect hm ho rfl).trans (congrArg _ (hstate.setA_setNZ_eq _))
  case eor => exact (exec_of_sourceEffect hm ho rfl).trans (congrArg _ (hstate.setA_setNZ_eq _))

/-- The compare law over the integers. -/
theorem compareFlags_eq (r m : Byte) (f : Flags) : compareFlags r m f =
    { f with
      n := (BitVec.ofInt 8 ((r.toNat : Int) - m.toNat)).getLsbD 7
      z := decide (r = m)
      c := decide (m.toNat ≤ r.toNat) } := by
  have hsub : BitVec.ofInt 8 ((r.toNat : Int) - m.toNat) = r - m := by
    apply BitVec.eq_of_toNat_eq
    rw [BitVec.toNat_ofInt, BitVec.toNat_sub]
    omega
  rw [hsub]
  rfl

/-- Settles O28: each compares its register with the operand read and sets only N, Z and C. -/
theorem compareInstructions : Obligations.CompareInstructions := by
  intro i o s ho m r hr
  have hexec : exec i s = .next (s.compare r o) := by
    obtain ⟨hm, rfl⟩ | ⟨hm, rfl⟩ | ⟨hm, rfl⟩ := hr
    · exact exec_of_sourceEffect hm ho rfl
    · exact exec_of_sourceEffect hm ho rfl
    · exact exec_of_sourceEffect hm ho rfl
  refine ⟨hexec.trans ?_, (s.readSource_run o).kept⟩
  rw [State.compare, compareFlags_eq]
  exact congrArg _ ((s.readSource_state o).setFlags_eq _)

/-- Settles O29: BIT reads its operand and sets only N, V and Z. -/
theorem bitInstruction : Obligations.BitInstruction := by
  intro i o s ho hm m
  exact ⟨(exec_of_sourceEffect hm ho rfl).trans (congrArg _ ((s.readSource_state o).setFlags_eq _)),
    (s.readSource_run o).kept⟩

/-! ## Shifts and rotates (R245 to R248) -/

theorem getLsbD_7 (v : Byte) : v.getLsbD 7 = decide (128 ≤ v.toNat) :=
  (BitVec.msb_eq_getLsbD_last v).symm.trans (BitVec.msb_eq_decide v)

theorem getLsbD_0 (v : Byte) : v.getLsbD 0 = decide (v.toNat % 2 = 1) := Nat.testBit_zero v.toNat

theorem toNat_shiftLeft_1 (v : Byte) : (v <<< 1).toNat = v.toNat * 2 % 256 := by
  rw [BitVec.toNat_shiftLeft, Nat.shiftLeft_eq]

theorem toNat_shiftRight_1 (v : Byte) : (v >>> 1).toNat = v.toNat / 2 := by
  rw [BitVec.toNat_ushiftRight, Nat.shiftRight_eq_div_pow]

theorem shiftLeft_eq (v : Byte) (c : Bool) :
    shiftLeft v c = (BitVec.ofNat 8 (v.toNat * 2), decide (128 ≤ v.toNat)) :=
  Prod.ext (BitVec.eq_of_toNat_eq ((toNat_shiftLeft_1 v).trans (BitVec.toNat_ofNat (v.toNat * 2) 8).symm)) (getLsbD_7 v)

theorem shiftRight_eq (v : Byte) (c : Bool) :
    shiftRight v c = (BitVec.ofNat 8 (v.toNat / 2), decide (v.toNat % 2 = 1)) := by
  refine Prod.ext (BitVec.eq_of_toNat_eq ((toNat_shiftRight_1 v).trans ?_)) (getLsbD_0 v)
  rw [BitVec.toNat_ofNat]
  omega

theorem carryByte_toNat (c : Bool) : ((BitVec.ofBool c).setWidth 8).toNat = carryNat c := by cases c <;> rfl

/-- The carry enters bit 0, which the shift left empties. -/
theorem rotateLeft_eq (v : Byte) (c : Bool) :
    rotateLeft v c = (BitVec.ofNat 8 (v.toNat * 2 + carryNat c), decide (128 ≤ v.toNat)) := by
  refine Prod.ext (BitVec.eq_of_toNat_eq ?_) (getLsbD_7 v)
  have hc := carryNat_le_one c
  have hor := Nat.two_pow_add_eq_or_of_lt (i := 1) (Nat.lt_succ_of_le hc) (v.toNat % 128)
  have hshift : v.toNat * 2 % 256 = 2 ^ 1 * (v.toNat % 128) := by omega
  rw [rotateLeft, BitVec.toNat_or, toNat_shiftLeft_1, carryByte_toNat, hshift, ← hor, BitVec.toNat_ofNat]
  omega

/-- The carry enters bit 7, which the shift right empties. -/
theorem rotateRight_eq (v : Byte) (c : Bool) :
    rotateRight v c = (BitVec.ofNat 8 (v.toNat / 2 + 128 * carryNat c), decide (v.toNat % 2 = 1)) := by
  refine Prod.ext (BitVec.eq_of_toNat_eq ?_) (getLsbD_0 v)
  have hc := carryNat_le_one c
  have hor := Nat.two_pow_add_eq_or_of_lt (i := 7) (b := v.toNat / 2) (by have := v.isLt; omega) (carryNat c)
  have hcarry : ((BitVec.ofBool c).setWidth 8 <<< 7 : Byte).toNat = 2 ^ 7 * carryNat c := by cases c <;> rfl
  rw [rotateRight, BitVec.toNat_or, toNat_shiftRight_1, hcarry, Nat.or_comm, ← hor, BitVec.toNat_ofNat]
  omega

/-- An accumulator shift whose result and carry out are `r`. -/
theorem State.shiftA_eq {f : Byte → Bool → Byte × Bool} {s : State} {r : Byte × Bool} (hr : f s.a s.flags.c = r) :
    s.shiftA f =
      { s with
        a := r.1
        flags := { s.flags with n := r.1.getLsbD 7, z := r.1 == 0, c := r.2 }
        sys := s.sys.tick } := by
  subst hr
  rfl

/-- Settles O32: each is its shift of A, as arithmetic, in one cycle. -/
theorem accumulatorShifts : Obligations.AccumulatorShifts :=
  fun _ =>
    ⟨congrArg _ (State.shiftA_eq (shiftLeft_eq _ _)), congrArg _ (State.shiftA_eq (shiftRight_eq _ _)),
      congrArg _ (State.shiftA_eq (rotateLeft_eq _ _)), congrArg _ (State.shiftA_eq (rotateRight_eq _ _))⟩

/-! ## Read-modify-write instructions (30_encoding.md R142) -/

/-- An instruction that modifies memory by `g` reads at its effective address and, two cycles later, writes there the byte
`v` that `g` makes of the byte read; it sets the flags and no register. -/
theorem exec_modify {i : Instr} {n : Mnemonic} {m : MemOperand} {s : State} {g : Byte → Byte × Flags} (hm : i.mnemonic = n)
    (ho : i.operand = .src (.mem m)) (hg : modifyEffect s.flags n = some g) {v : Byte} {f : Flags}
    (hv : g (s.modifyRead m).1 = (v, f)) :
    let y := (s.modifyRead m).2.sys.tick.tick.poke (s.effectiveAddress .readModifyWrite m).1 v
    exec i s = .next { s with flags := f, lastAccessWasRead := false, sys := y }
      ∧ System.Kept (s.modifyPlaces m) s.sys y
      ∧ (s.inv = true → ∀ l ∈ (s.modifyRead m).2.writePlaces (s.effectiveAddress .readModifyWrite m).1, y.byteAt l = v) := by
  intro y
  have hy : (s.modify m g).sys = y := by
    simp only [y, State.modify_eq, hv]
    rfl
  have hstate := s.modify_state m g
  rw [hv, hy] at hstate
  have hrun := s.modify_run m g
  rw [hy] at hrun
  refine ⟨(exec_of_modifyEffect hm ho hg).trans (congrArg _ hstate), hrun.kept, fun hi l hl => ?_⟩
  exact State.write_byteAt (s := (s.modifyRead m).2.idle) ((s.modifyRead_run m).inv hi) hl v

theorem ofNat_toNat_add (v : Byte) (k : Nat) : BitVec.ofNat 8 (v.toNat + k) = v + BitVec.ofNat 8 k := by
  rw [BitVec.ofNat_add, BitVec.ofNat_toNat, BitVec.setWidth_eq]

theorem ofNat_toNat_add_255 (v : Byte) : BitVec.ofNat 8 (v.toNat + 255) = v - 1 := by
  rw [ofNat_toNat_add, BitVec.sub_eq_add_neg]
  rfl

/-- Settles O30: INC and DEC modify their byte by plus and minus one. -/
theorem incDecMemory : Obligations.IncDecMemory := by
  intro i m s ho ea r v hv
  obtain ⟨hm, rfl⟩ | ⟨hm, rfl⟩ := hv
  case inl => exact exec_modify hm ho rfl (congrArg (fun w => (w, s.flags.setNZ w)) (ofNat_toNat_add r.1 1).symm)
  case inr => exact exec_modify hm ho rfl (congrArg (fun w => (w, s.flags.setNZ w)) (ofNat_toNat_add_255 r.1).symm)

/-- Settles O33: each modifies its byte by its shift, as arithmetic. -/
theorem memoryShifts : Obligations.MemoryShifts := by
  intro i m s ho ea r c v carry h
  obtain ⟨hm, rfl, rfl⟩ | ⟨hm, rfl, rfl⟩ | ⟨hm, rfl, rfl⟩ | ⟨hm, rfl, rfl⟩ := h
  case inl => exact exec_modify hm ho rfl (congrArg (withNZC s.flags) (shiftLeft_eq r.1 s.flags.c))
  case inr.inl => exact exec_modify hm ho rfl (congrArg (withNZC s.flags) (shiftRight_eq r.1 s.flags.c))
  case inr.inr.inl => exact exec_modify hm ho rfl (congrArg (withNZC s.flags) (rotateLeft_eq r.1 s.flags.c))
  case inr.inr.inr => exact exec_modify hm ho rfl (congrArg (withNZC s.flags) (rotateRight_eq r.1 s.flags.c))

/-! ## Register increments and decrements (R241 to R244) -/

/-- Settles O31: each is a cycle and a register update, so its encoding, cost and next state are definitional. -/
theorem incDecRegisters : Obligations.IncDecRegisters :=
  fun _ => ⟨⟨rfl, rfl, rfl⟩, ⟨rfl, rfl, rfl⟩, ⟨rfl, rfl, rfl⟩, ⟨rfl, rfl, rfl⟩⟩

end Sys2Proof.Machine
end

section
/-! Control transfer: branches, jumps, JSR, RTS, BRK, RTI, NOP and the flag instructions (42_control_flags.md R255 to R280). -/

namespace Sys2Proof.Machine

/-! ## Words as the rules write them -/

theorem crossed_eq (p q : Word) : crossed p q = !decide (q.toNat / 256 = p.toNat / 256) := by
  rw [← hiByte_toNat, ← hiByte_toNat]
  simp [crossed, bne, eq_comm, BitVec.toNat_inj, Bool.beq_eq_decide_eq]

/-- The address after `p` in its page (30_encoding.md R150). -/
theorem wordOf_hiByte_loByte_add_one (p : Word) :
    wordOf (hiByte p) (loByte p + 1) = p &&& 0xFF00 ||| (p + 1) &&& 0x00FF := by
  have hhi : (hiByte p).setWidth 16 <<< 8 = p &&& 0xFF00 := by
    unfold hiByte
    ext i hi
    interval_cases i <;> simp
  have hlo : (loByte p + 1).setWidth 16 = (p + 1) &&& 0x00FF := by
    have hmask : ((p + 1) &&& 0x00FF).toNat = (p + 1).toNat % 256 := Nat.and_two_pow_sub_one_eq_mod _ 8
    have hbyte := loByte_toNat p
    bv_omega
  rw [wordOf_eq_or, hhi, hlo]

/-! ## Branches (R255) -/

theorem State.branch_eq (cond : Bool) (d : Int) (s : State) :
    s.branch cond d =
      if cond then
        { s with
          pc := s.pc + BitVec.ofInt 16 d
          sys := if (s.pc + BitVec.ofInt 16 d).toNat / 256 = s.pc.toNat / 256 then s.sys.tick else s.sys.tick.tick }
      else s := by
  unfold State.branch displacement
  simp only [crossed_eq]
  by_cases hpage : (s.pc + BitVec.ofInt 16 d).toNat / 256 = s.pc.toNat / 256
  · simp only [hpage]; rfl
  · simp only [hpage]; rfl

/-- Settles O34: every branch is the common rule under its own flag. -/
theorem branchInstructions : Obligations.BranchInstructions := by
  intro d s target taken go
  have branch (cond : Bool) : Host.Outcome.next (s.branch cond d) = go cond := congrArg Host.Outcome.next (s.branch_eq cond d)
  exact ⟨branch _, branch _, branch _, branch _, branch _, branch _, branch _, branch _⟩

/-! ## Jumps (R268) -/

theorem State.jumpIndirect_eq (p : Word) (s : State) :
    s.jumpIndirect p =
      { s with
        pc := ((s.read p).2.read (p &&& 0xFF00 ||| (p + 1) &&& 0x00FF)).1.setWidth 16 <<< 8 ||| (s.read p).1.setWidth 16
        lastAccessWasRead := true
        sys := ((s.read p).2.read (p &&& 0xFF00 ||| (p + 1) &&& 0x00FF)).2.sys } := by
  rw [← wordOf_hiByte_loByte_add_one, ← wordOf_eq_or]
  refine State.of_fields ?_ ?_ ?_ ?_ ?_ ?_ ?_ ?_ ?_ ?_ <;> simp [State.jumpIndirect, State.indirectTarget]

theorem State.jumpIndirect_sys (p : Word) (s : State) :
    (s.jumpIndirect p).sys = ((s.read p).2.read (p &&& 0xFF00 ||| (p + 1) &&& 0x00FF)).2.sys := by
  rw [s.jumpIndirect_eq p]

/-- Settles O35: JMP Ind reads twice, the second time at the next address of the pointer's page. -/
theorem jumpInstructions : Obligations.JumpInstructions := by
  intro p s lo hi
  have hrun := s.jumpIndirect_run p
  rw [wordOf_hiByte_loByte_add_one, s.jumpIndirect_sys p] at hrun
  exact ⟨rfl, congrArg Host.Outcome.next (s.jumpIndirect_eq p), hrun.kept⟩

/-! ## JSR (R269) -/

theorem State.jsr_eq (lo : Byte) (s : State) :
    s.jsr lo =
      { s with
        sp := s.sp - 2
        pc := ((s.idle.pushWord s.pc).read s.pc).1.setWidth 16 <<< 8 ||| lo.setWidth 16
        lastAccessWasRead := true
        sys := ((s.idle.pushWord s.pc).read s.pc).2.sys } := by
  refine State.of_fields ?_ ?_ ?_ ?_ ?_ ?_ ?_ ?_ ?_ ?_ <;> simp [State.jsr, wordOf_eq_or]

theorem State.jsr_sys (lo : Byte) (s : State) :
    (s.jsr lo).sys = ((s.idle.pushWord s.pc).read s.pc).2.sys := by
  rw [s.jsr_eq lo]

/-- The invariant fixes the device list (20_memory.md R65). -/
theorem State.devices_of_inv {s : State} (h : s.inv = true) : s.sys.devices = attachOrder := by
  obtain ⟨-, -, hd, -⟩ := (System.inv_iff s.sys).1 h
  exact hd

/-- After JSR the two bytes of PC are on the stack. -/
theorem State.jsr_byteAt {s : State} (h : s.inv = true) (lo : Byte) :
    (∀ l ∈ s.writePlaces (stackAddr s.sp), (s.jsr lo).sys.byteAt l = hiByte s.pc)
      ∧ ∀ l ∈ s.writePlaces (stackAddr (s.sp - 1)), (s.jsr lo).sys.byteAt l = loByte s.pc := by
  have hd : s.sys.devices = attachOrder := State.devices_of_inv h
  have hpush := State.pushWord_byteAt (s := s.idle) h s.pc
  simp only [State.idle_sp, State.idle_writePlaces_stack] at hpush
  obtain ⟨hhi, hlo⟩ := hpush
  rw [s.jsr_sys lo]
  exact ⟨fun l hl => (State.read_byteAt_stack hd hl s.pc).trans (hhi l hl),
    fun l hl => (State.read_byteAt_stack hd hl s.pc).trans (hlo l hl)⟩

/-- Settles O36: JSR is a cycle, two pushes and a read, which leaves the bytes pushed alone. -/
theorem jumpSubroutine : Obligations.JumpSubroutine := by
  intro lo s w hi
  have hrun := s.jsr_run lo
  have hbytes := fun h => s.jsr_byteAt h lo
  rw [s.jsr_sys lo] at hrun hbytes
  exact ⟨congrArg Host.Outcome.next (s.jsr_eq lo), hrun.kept, hbytes⟩

/-! ## RTS and RTI (R270, R272) -/

theorem State.pullWord_eq (s : State) : s.pullWord =
    (((s.sys.tick.peek (stackAddr (s.sp + 1))).2.tick.peek (stackAddr (s.sp + 2))).1.setWidth 16 <<< 8
        ||| (s.sys.tick.peek (stackAddr (s.sp + 1))).1.setWidth 16,
      { s with
        sp := s.sp + 2
        lastAccessWasRead := true
        sys := ((s.sys.tick.peek (stackAddr (s.sp + 1))).2.tick.peek (stackAddr (s.sp + 2))).2 }) := by
  have hsp : s.sp + 1 + 1 = s.sp + 2 := BitVec.add_assoc s.sp 1 1
  simp only [State.pullWord, State.pull_eq, hsp, wordOf_eq_or]

/-- A pull does not look at the flags. -/
theorem State.pullWord_setFlags (f : Flags) (s : State) :
    (s.setFlags f).pullWord = (s.pullWord.1, s.pullWord.2.setFlags f) := by
  simp only [State.pullWord_eq]
  rfl

theorem State.rts_eq (s : State) : s.rts =
    { s with
      sp := s.sp + 2
      pc := s.idle.idle.pullWord.1 + 1
      lastAccessWasRead := true
      sys := s.idle.idle.pullWord.2.sys.tick } := by
  rw [State.rts, State.pullWord_eq]
  rfl

@[simp] theorem State.pullWord_last (s : State) : s.pullWord.2.lastAccessWasRead = true := by
  rw [s.pullWord_eq]

theorem State.rti_eq (s : State) : s.rti =
    { s with
      sp := s.sp + 3
      pc := s.idle.idle.pull.2.pullWord.1
      flags := Flags.ofByte s.idle.idle.pull.1
      lastAccessWasRead := true
      sys := s.idle.idle.pull.2.pullWord.2.sys } := by
  have hsp : s.sp + 1#8 + 1#8 + 1#8 = s.sp + 3#8 := by rw [BitVec.add_assoc, BitVec.add_assoc]; rfl
  refine State.of_fields ?_ ?_ ?_ ?_ ?_ ?_ ?_ ?_ ?_ ?_ <;>
    simp [State.rti, State.trapReturn, State.pullWord_setFlags, hsp]

/-- Settles O37: RTS and RTI pull, and a pull is a peek that disturbs no byte. -/
theorem returnInstructions : Obligations.ReturnInstructions := by
  intro s p1 p2 p3
  have h2 : s.sp + 1 + 1 = s.sp + 2 := BitVec.add_assoc s.sp 1 1
  have h3 : s.sp + 1 + 2 = s.sp + 3 := BitVec.add_assoc s.sp 1 2
  have hrts := s.rts_eq
  have hrti := s.rti_eq
  simp only [State.pullWord_eq, State.idle_sp, State.idle_sys] at hrts
  simp only [State.pullWord_eq, State.pull_eq, State.idle_sp, State.idle_sys, h2, h3] at hrti
  have hrtsKept := s.rts_run.kept
  have hrtiKept := s.rti_run.kept
  simp only [hrts] at hrtsKept
  simp only [hrti] at hrtiKept
  exact ⟨congrArg Host.Outcome.next hrts, congrArg Host.Outcome.next hrti, hrtsKept, hrtiKept⟩

/-! ## NOP and the flag instructions (R273 to R280) -/

/-- Settles O39: each is a cycle and at most one flag, so its encoding, cost and next state are definitional. -/
theorem nopAndFlagInstructions : Obligations.NopAndFlagInstructions :=
  fun _ => ⟨⟨rfl, rfl, rfl⟩, ⟨rfl, rfl, rfl⟩, ⟨rfl, rfl, rfl⟩, ⟨rfl, rfl, rfl⟩, ⟨rfl, rfl, rfl⟩, ⟨rfl, rfl, rfl⟩,
    ⟨rfl, rfl, rfl⟩, ⟨rfl, rfl, rfl⟩⟩

/-! ## BRK (R271) -/

/-- `P | 0x30`, the byte BRK pushes, is `P` with B set (10_state.md R27). -/
theorem Flags.toByte_or (f : Flags) : f.toByte ||| 0x30 = ({ f with b := true } : Flags).toByte := by
  obtain ⟨n, v, b, d, i, z, c⟩ := f
  revert n v b d i z c
  decide

/-- `P` read back from its byte (R27, R28). -/
theorem Flags.ofByte_toByte (f : Flags) : Flags.ofByte f.toByte = f := by
  obtain ⟨n, v, b, d, i, z, c⟩ := f
  revert n v b d i z c
  decide

theorem State.brk_eq (s : State) : s.brk =
    { s with
      sp := s.sp - 3
      flags := { s.flags with b := true, i := true }
      pc := (((s.idle.pushWord (s.pc + 1)).push (s.flags.toByte ||| 0x30)).read16 0xFFFE).1
      lastAccessWasRead := true
      sys := (((s.idle.pushWord (s.pc + 1)).push (s.flags.toByte ||| 0x30)).read16 0xFFFE).2.sys } := by
  rw [State.brk, State.trap_state, Flags.toByte_or]
  rfl

theorem State.brk_sys (s : State) :
    s.brk.sys = (((s.idle.pushWord (s.pc + 1)).push (s.flags.toByte ||| 0x30)).read16 0xFFFE).2.sys := by
  rw [s.brk_eq]

/-- A word and a byte pushed are all on the stack. -/
theorem State.pushWord_push_byteAt {s : State} (h : s.inv = true) (w : Word) (v : Byte) :
    (∀ l ∈ s.writePlaces (stackAddr s.sp), ((s.pushWord w).push v).sys.byteAt l = hiByte w)
      ∧ (∀ l ∈ s.writePlaces (stackAddr (s.sp - 1)), ((s.pushWord w).push v).sys.byteAt l = loByte w)
      ∧ ∀ l ∈ s.writePlaces (stackAddr (s.sp - 2)), ((s.pushWord w).push v).sys.byteAt l = v := by
  have hrun := s.pushWord_run w
  have hd : s.sys.devices = attachOrder := State.devices_of_inv h
  have hd' : (s.pushWord w).sys.devices = attachOrder := hrun.steady.devices.trans hd
  obtain ⟨hhi, hlo⟩ := State.pushWord_byteAt h w
  refine ⟨fun l hl => ?_, fun l hl => ?_, fun l hl => ?_⟩
  · have hne : s.sp ≠ (s.pushWord w).sp := by rw [State.pushWord_sp]; bv_omega
    exact (State.push_byteAt_other hd hd' hne hl v).trans (hhi l hl)
  · have hne : s.sp - 1 ≠ (s.pushWord w).sp := by rw [State.pushWord_sp]; bv_omega
    exact (State.push_byteAt_other hd hd' hne hl v).trans (hlo l hl)
  · refine State.push_byteAt (hrun.inv h) ?_ v
    rwa [State.pushWord_sp, State.writePlaces_stack hrun.steady]

theorem State.read16_byteAt_stack {s t : State} (hs : s.sys.devices = attachOrder) {p : Byte} {l : Loc}
    (hl : l ∈ s.writePlaces (stackAddr p)) (addr : Word) : (t.read16 addr).2.sys.byteAt l = t.sys.byteAt l :=
  (State.read_byteAt_stack hs hl _).trans (State.read_byteAt_stack hs hl _)

/-- After BRK the return address and the status byte are on the stack. -/
theorem State.brk_byteAt {s : State} (h : s.inv = true) :
    (∀ l ∈ s.writePlaces (stackAddr s.sp), s.brk.sys.byteAt l = hiByte (s.pc + 1))
      ∧ (∀ l ∈ s.writePlaces (stackAddr (s.sp - 1)), s.brk.sys.byteAt l = loByte (s.pc + 1))
      ∧ ∀ l ∈ s.writePlaces (stackAddr (s.sp - 2)), s.brk.sys.byteAt l = s.flags.toByte ||| 0x30 := by
  have hd : s.sys.devices = attachOrder := State.devices_of_inv h
  have hpush := State.pushWord_push_byteAt (s := s.idle) h (s.pc + 1) (s.flags.toByte ||| 0x30)
  simp only [State.idle_sp, State.idle_writePlaces_stack] at hpush
  obtain ⟨hhi, hlo, hp⟩ := hpush
  rw [s.brk_sys]
  exact ⟨fun l hl => (State.read16_byteAt_stack hd hl _).trans (hhi l hl),
    fun l hl => (State.read16_byteAt_stack hd hl _).trans (hlo l hl),
    fun l hl => (State.read16_byteAt_stack hd hl _).trans (hp l hl)⟩

/-- Settles O38: BRK is a cycle, three pushes and the reads of its vector, which leave the bytes pushed alone. -/
theorem breakInstruction : Obligations.BreakInstruction := by
  intro s w r
  have hrun := s.brk_run
  have hbytes := fun h => State.brk_byteAt (s := s) h
  rw [s.brk_sys] at hrun hbytes
  exact ⟨congrArg Host.Outcome.next s.brk_eq, hrun.kept, hbytes⟩

/-! ## Pulling what was pushed (20_memory.md R75) -/

/-- The byte behind stack address `p`, where there is one, is `v`. -/
def State.Stacked (p v : Byte) (t : State) : Prop := ∀ l ∈ t.writePlaces (stackAddr p), t.sys.byteAt l = v

theorem State.Stacked.of_steady {s t : State} (k : s.sys.Steady t.sys) {p v : Byte}
    (h : ∀ l ∈ s.writePlaces (stackAddr p), t.sys.byteAt l = v) : t.Stacked p v := by
  rwa [State.Stacked, State.writePlaces_stack k]

/-- A run of accesses that disturbs no byte keeps the stack. -/
theorem State.Stacked.run {n : Nat} {s t : State} (k : System.Run n [] s.sys t.sys) {p v : Byte} (h : s.Stacked p v) :
    t.Stacked p v :=
  .of_steady k.steady fun l hl => (k.bytes l List.not_mem_nil).trans (h l hl)

/-- In RIOT RAM the byte read at a stack address is the byte behind it. -/
theorem State.Stacked.peek {t : State} (hd : t.sys.devices = attachOrder) {p v : Byte} (hp : 0x80 ≤ p.toNat)
    (h : t.Stacked p v) : (t.sys.tick.peek (stackAddr p)).1 = v := by
  have h7 : p.getLsbD 7 = true := by
    rw [← BitVec.msb_eq_getLsbD_last, BitVec.msb_eq_decide]
    simpa using hp
  obtain ⟨hb7, hb9, hidx⟩ := stackAddr_bits p
  rw [busAddr_getLsbD (by decide)] at hb7 hb9
  have hb12 := busAddr_stackAddr p
  rw [busAddr_getLsbD (by decide)] at hb12
  rw [(System.peek_riotRam (y := t.sys.tick) hd hb12 (hb7.trans h7) hb9).1, ← ramIndex_busAddr, hidx]
  exact h ⟨.riotRam, p.toNat % 128⟩ (by simp [State.writePlaces, System.pokeTarget_stack hd, h7])

section Pulls
variable {t : State} (hd : t.sys.devices = attachOrder) {p : Byte}
include hd

theorem State.Stacked.pull {v : Byte} (hp : 0x80 ≤ p.toNat) (hsp : t.sp = p - 1) (h : t.Stacked p v) : t.pull.1 = v := by
  rw [t.pull_eq, hsp, BitVec.sub_add_cancel]
  exact h.peek hd hp

variable {w : Word}

theorem State.Stacked.pullWord (hp : 0x81 ≤ p.toNat) (hsp : t.sp = p - 2) (hlo : t.Stacked (p - 1) (loByte w))
    (hhi : t.Stacked p (hiByte w)) : t.pullWord.1 = w := by
  have hlo' : t.pull.1 = loByte w := hlo.pull hd (by bv_omega) (by bv_omega)
  have hhi' : t.pull.2.pull.1 = hiByte w :=
    (hhi.run t.pull_run).pull (t.pull_run.steady.devices.trans hd) (by omega) (by rw [State.pull_sp]; bv_omega)
  rw [State.pullWord, hlo', hhi', wordOf_hi_lo]

/-- RTS goes past the address on the stack. -/
theorem State.Stacked.rts_pc (hp : 0x81 ≤ p.toNat) (hsp : t.sp = p - 2) (hlo : t.Stacked (p - 1) (loByte w))
    (hhi : t.Stacked p (hiByte w)) : t.rts.pc = w + 1 := by
  have hw : t.idle.idle.pullWord.1 = w :=
    State.Stacked.pullWord (t := t.idle.idle) hd hp hsp (hlo.run t.idle2_run) (hhi.run t.idle2_run)
  rw [t.rts_eq, hw]

/-- RTI takes the flags and the address on the stack. -/
theorem State.Stacked.rti_flags_pc {f : Byte} (hp : 0x82 ≤ p.toNat) (hsp : t.sp = p - 3) (hf : t.Stacked (p - 2) f)
    (hlo : t.Stacked (p - 1) (loByte w)) (hhi : t.Stacked p (hiByte w)) :
    t.rti.flags = Flags.ofByte f ∧ t.rti.pc = w := by
  have hrun : System.Run 3 [] t.sys t.idle.idle.pull.2.sys := t.idle2_run.trans' t.idle.idle.pull_run
  have hf' : t.idle.idle.pull.1 = f :=
    (hf.run t.idle2_run).pull (t := t.idle.idle) hd (by bv_omega) (by rw [State.idle_sp, State.idle_sp]; bv_omega)
  have hw : t.idle.idle.pull.2.pullWord.1 = w :=
    State.Stacked.pullWord (hrun.steady.devices.trans hd) (by omega)
      (by rw [State.pull_sp, State.idle_sp, State.idle_sp]; bv_omega) (hlo.run hrun) (hhi.run hrun)
  rw [t.rti_eq, hf', hw]
  exact ⟨rfl, rfl⟩

end Pulls

/-! ## Calls and traps return -/

theorem State.rts_pc_of_jsr {s : State} (h : s.inv = true) (hsp : 0x81 ≤ s.sp.toNat) (lo : Byte) :
    (s.jsr lo).rts.pc = s.pc + 1 := by
  have hk := (s.jsr_run lo).steady
  obtain ⟨hhi, hlo⟩ := State.jsr_byteAt h lo
  exact State.Stacked.rts_pc (hk.devices.trans (State.devices_of_inv h)) hsp (by rw [s.jsr_eq]) (.of_steady hk hlo)
    (.of_steady hk hhi)

theorem State.rti_flags_pc_of_brk {s : State} (h : s.inv = true) (hsp : 0x82 ≤ s.sp.toNat) :
    s.brk.rti.flags = { s.flags with b := true } ∧ s.brk.rti.pc = s.pc + 1 := by
  have hk := s.brk_run.steady
  obtain ⟨hhi, hlo, hf⟩ := State.brk_byteAt h
  rw [Flags.toByte_or] at hf
  have hpull := State.Stacked.rti_flags_pc (hk.devices.trans (State.devices_of_inv h)) hsp (by rw [s.brk_eq])
    (.of_steady hk hf) (.of_steady hk hlo) (.of_steady hk hhi)
  rwa [Flags.ofByte_toByte] at hpull

/-- Settles O40: the pulls find the bytes pushed, and add to SP what the pushes took. -/
theorem callsAndTrapsReturn : Obligations.CallsAndTrapsReturn := by
  refine ⟨fun lo s t hi hsp ht => ?call, fun s t hi hsp ht => ?trap⟩
  case call =>
    cases ht
    refine ⟨(s.jsr lo).rts, rfl, State.rts_pc_of_jsr hi hsp lo, ?_⟩
    simp [State.rts_eq, State.jsr_eq]
  case trap =>
    cases ht
    obtain ⟨hf, hpc⟩ := State.rti_flags_pc_of_brk hi hsp
    refine ⟨s.brk.rti, rfl, hpc, ?_, ?_, ?_, ?_, hf⟩
    all_goals simp [State.rti_eq, State.brk_eq]

end Sys2Proof.Machine
end

section
/-! Steps, exceptions and interrupts (60_exceptions.md R300 to R317). -/

namespace Sys2Proof.Machine

/-! ## The step of a running machine (R300, R309 to R312) -/

section Running
variable {s : State} (hr : s.running = true)
include hr

theorem State.fatal_of_running : s.sys.status.fatal = false := by
  simpa [State.running] using hr

theorem step_running : step s = pass s.clearStop :=
  if_neg (by simp [State.fatal_of_running hr])

theorem step_of_nmi (hn : s.sys.status.nmi = true) : step s = runInstruction s.clearStop.takeNMI :=
  (step_running hr).trans (congrArg runInstruction (if_pos hn))

theorem step_of_irq (hn : s.sys.status.nmi = false) (hi : s.sys.status.irq = true) (hf : s.flags.i = false) :
    step s = runInstruction s.clearStop.takeIRQ := by
  have hnmi : ¬s.clearStop.sys.status.nmi = true := Bool.eq_false_iff.1 hn
  have hirq : (s.clearStop.sys.status.irq && !s.clearStop.flags.i) = true :=
    Bool.and_eq_true_iff.2 ⟨hi, (Bool.not_eq_true' _).mpr hf⟩
  rw [step_running hr, pass, State.serviceInterrupt, if_neg hnmi, if_pos hirq]

theorem step_of_noInterrupt (hn : s.noInterrupt = true) : step s = runInstruction s.clearStop := by
  obtain ⟨hnmi, hirq⟩ := Bool.and_eq_true_iff.1 hn
  rw [Bool.not_eq_true', Bool.eq_false_iff] at hnmi hirq
  rw [step_running hr, pass]
  exact congrArg runInstruction ((if_neg hnmi).trans (if_neg hirq))

end Running

/-- An instruction leaves the pending interrupts as they are (R316). -/
theorem runInstruction_pending {s t : State} (h : runInstruction s = .next t) :
    t.sys.status.irq = s.sys.status.irq ∧ t.sys.status.nmi = s.sys.status.nmi := by
  have hf : s.sys.Steady s.fetchInstruction.2.sys := s.fetchInstruction_run.steady
  obtain ⟨_, -, rfl⟩ | ⟨i, _, u, -, hu, rfl⟩ := runInstruction_cases h
  · exact ⟨hf.irq, hf.nmi⟩
  · obtain ⟨_, hx⟩ := exec_run hu
    exact ⟨hx.steady.irq.trans hf.irq, hx.steady.nmi.trans hf.nmi⟩

/-- Settles O10: the check takes NMI before an unmasked IRQ, and the instruction after it raises or clears neither. -/
theorem interruptService : Obligations.InterruptService := fun s hr =>
  ⟨fun hn => step_of_nmi hr hn, fun hn hi hf => step_of_irq hr hn hi hf, fun hn =>
    have hs := step_of_noInterrupt hr hn
    ⟨hs, fun _ ht => runInstruction_pending (s := s.clearStop) (hs.symm.trans ht)⟩⟩

/-! ## The decoded instruction (R302; 30_encoding.md R140, R143) -/

theorem runInstruction_of_exec {s t : State} {i : Instr} {rest : List Byte}
    (hd : decode s.fetchInstruction.1 = .ok (i, rest)) (ht : exec i s.fetchInstruction.2 = .next t) :
    runInstruction s = .next t.countInstruction := by
  simp only [runInstruction, hd, ht]

/-- The bytes fetched are those of the instruction and no more. -/
theorem State.fetchInstruction_decode {s : State} {i : Instr} {rest : List Byte}
    (hd : decode s.fetchInstruction.1 = .ok (i, rest)) : i.wf = true ∧ rest = [] ∧ s.fetchOpcode.1 = i.opcode := by
  obtain ⟨hwf, hbytes⟩ := decodedBytesReencode _ _ _ hd
  obtain ⟨hop, hoperand⟩ : s.fetchOpcode.1 = i.opcode
      ∧ (State.fetchBytes (operandBytesOf s.fetchOpcode.1) s.fetchOpcode.2).1 = i.operand.bytes ++ rest :=
    List.cons.inj hbytes
  obtain ⟨-, hcount, -⟩ := Laws.EncodedForm.all i
  have hlen := congrArg List.length hoperand
  rw [State.fetchBytes_length, hop, hcount, List.length_append] at hlen
  exact ⟨hwf, List.length_eq_zero_iff.1 (by omega), hop⟩

/-- The state after the fetches of a decoded instruction. -/
theorem State.fetchInstruction_eq {s : State} {i : Instr} {rest : List Byte}
    (hd : decode s.fetchInstruction.1 = .ok (i, rest)) :
    s.fetchInstruction.2 =
      { s with
        pc := s.pc + BitVec.ofNat 16 (encode i).length
        ir := i.opcode
        lastAccessWasRead := s.fetchInstruction.2.lastAccessWasRead
        sys := s.fetchInstruction.2.sys } := by
  obtain ⟨-, -, hop⟩ := State.fetchInstruction_decode hd
  obtain ⟨-, hcount, -⟩ := Laws.EncodedForm.all i
  have hpc : s.pc + 1 + BitVec.ofNat 16 i.operand.bytes.length = s.pc + BitVec.ofNat 16 (encode i).length := by
    rw [encode, List.length_cons, Nat.add_comm, BitVec.ofNat_add, BitVec.add_assoc]
    rfl
  have hstate := s.fetchInstruction_state
  rwa [hop, hcount, hpc] at hstate

/-- Settles O6: the step is the instruction of the bytes fetched, which are its encoding, and every instruction completes. -/
theorem stepRunsDecodedInstruction : Obligations.StepRunsDecodedInstruction := by
  intro s i rest hr hn hd u
  obtain ⟨hwf, hrest, hop⟩ := State.fetchInstruction_decode hd
  obtain ⟨t, ht⟩ : ∃ t, exec i u = .next t := exec_next i u
  refine ⟨hwf, hrest, hop, State.fetchInstruction_eq hd, ?_⟩
  rw [ht]
  exact (step_of_noInterrupt hr hn).trans (runInstruction_of_exec hd ht)

/-! ## Illegal opcodes (R303) -/

theorem runInstruction_of_error {s : State} {e : DecodeError} (hd : decode s.fetchInstruction.1 = .error e) :
    runInstruction s = .next (s.fetchInstruction.2.raiseFatal s.pc) := by
  simp only [runInstruction, hd]

/-- Raising FatalError after the opcode's fetch puts PC back. -/
theorem State.fetchOpcode_raiseFatal (s : State) : s.fetchOpcode.2.raiseFatal s.pc =
    { s with
      ir := (s.read s.pc).1
      lastAccessWasRead := true
      sys := (s.read s.pc).2.sys.setStatus { (s.read s.pc).2.sys.status with fatal := true } } := by
  refine State.of_fields ?_ ?_ ?_ ?_ ?_ ?_ ?_ ?_ ?_ ?_ <;> simp [State.raiseFatal, State.fetchOpcode, State.fetch]

theorem runInstruction_of_illegal {s : State} (h : legalOpcode (s.read s.pc).1 = false) :
    runInstruction s = .next
      { s with
        ir := (s.read s.pc).1
        lastAccessWasRead := true
        sys := (s.read s.pc).2.sys.setStatus { (s.read s.pc).2.sys.status with fatal := true } } := by
  have hrow : instrOf s.fetchOpcode.1 0 0 = none := Option.isNone_iff_eq_none.1 (Option.isSome_eq_false_iff.1 h)
  have hcount : operandBytesOf s.fetchOpcode.1 = 0 := by rw [operandBytesOf, hrow]; rfl
  have hfetch : s.fetchInstruction.2 = s.fetchOpcode.2 := by rw [State.fetchInstruction, hcount]; rfl
  have hd : decode s.fetchInstruction.1 = .error (.illegalOpcode s.fetchOpcode.1) := (decode_illegal_iff _).2 h _
  rw [runInstruction_of_error hd, hfetch, s.fetchOpcode_raiseFatal]

/-! ## FatalError and `execute` (R300, R301, R304, R317) -/

theorem step_of_fatal {s : State} (h : s.sys.status.fatal = true) : step s = .fault .fatalErrorHalt := if_pos h

theorem executeLoop_of_fatal {s : State} (h : s.sys.status.fatal = true) (n : Nat) : executeLoop n s = .next (false, s) := by
  rw [executeLoop.eq_def]
  exact if_pos h

theorem executeLoop_of_stop {s : State} (hf : s.sys.status.fatal = false) (hs : s.sys.status.stop = true) (n : Nat) :
    executeLoop n s = .next (true, s) := by
  rw [executeLoop.eq_def]
  exact (if_neg (Bool.eq_false_iff.1 hf)).trans (if_pos hs)

theorem executeLoop_zero (s : State) : executeLoop 0 s = .next (s.running, s) := by
  rw [State.running]
  cases hf : s.sys.status.fatal with
  | true => exact executeLoop_of_fatal hf 0
  | false =>
    rw [executeLoop.eq_def]
    exact (if_neg (Bool.eq_false_iff.1 hf)).trans (ite_self _)

theorem execute_of_fatal {s : State} (h : s.sys.status.fatal = true) (n : Nat) : execute n s = .next (false, s.clearStop) :=
  executeLoop_of_fatal (s := s.clearStop) h n

/-- A running machine takes a step before the next check. -/
theorem execute_succ {s t : State} (hr : s.running = true) (ht : step s = .next t) (n : Nat) :
    execute (n + 1) s = executeLoop n t := by
  have hf : ¬s.clearStop.sys.status.fatal = true := Bool.eq_false_iff.1 (State.fatal_of_running hr)
  have hs : ¬s.clearStop.sys.status.stop = true := Bool.false_ne_true
  have hp : pass s.clearStop = .next t := (step_running hr).symm.trans ht
  rw [execute, executeLoop.eq_def]
  refine (if_neg hf).trans ((if_neg hs).trans ?_)
  simp only [hp]

theorem State.clearStop_of_not_stop {s : State} (h : s.sys.status.stop = false) : s.clearStop = s := by
  show { s with sys := { s.sys with status := { s.sys.status with stop := false } } } = s
  rw [← h]

theorem executeLoop_eq (n : Nat) (t : State) : executeLoop n t =
    if t.sys.status.fatal then .next (false, t) else if t.sys.status.stop then .next (true, t) else execute n t := by
  cases hf : t.sys.status.fatal with
  | true => exact executeLoop_of_fatal hf n
  | false =>
    cases hs : t.sys.status.stop with
    | true => exact executeLoop_of_stop hf hs n
    | false => rw [execute, State.clearStop_of_not_stop hs]; rfl

/-- Settles O9: the loop checks, steps and goes on; a clear StopExecution is clear already. -/
theorem executeFollowsSteps : Obligations.ExecuteFollowsSteps :=
  ⟨fun s => executeLoop_zero s.clearStop, fun n _ t hr ht => (execute_succ hr ht n).trans (executeLoop_eq n t)⟩

/-- Settles O7: the opcode's read is all that happens before FatalError, which the next check of `execute` finds. -/
theorem illegalOpcodeRaisesFatal : Obligations.IllegalOpcodeRaisesFatal := by
  intro s hr hn hop r t
  have hstep : step s = .next t := (step_of_noInterrupt hr hn).trans (runInstruction_of_illegal hop)
  have hpeek := System.peek_effect s.pc s.clearStop.sys.tick
  have hlatch := System.peek_dataBus s.pc s.clearStop.sys.tick
  exact ⟨hstep, fun n => (execute_succ hr hstep n).trans (executeLoop_of_fatal rfl n), hpeek.cycles,
    fun hl => hlatch.trans (if_neg (Bool.eq_false_iff.1 hl)), (s.clearStop.read_run s.pc).kept⟩

theorem step_next_of_running {s : State} (hr : s.running = true) : ∃ t, step s = .next t := by
  rw [step_running hr, pass]
  generalize s.clearStop.serviceInterrupt = u
  cases hd : decode u.fetchInstruction.1 with
  | error e => exact ⟨_, runInstruction_of_error hd⟩
  | ok r =>
    obtain ⟨i, rest⟩ := r
    obtain ⟨t, ht⟩ := exec_next i u.fetchInstruction.2
    exact ⟨_, runInstruction_of_exec hd ht⟩

theorem System.resetCycles_status (y : System) : y.resetCycles.status = y.status := by
  suffices key : ∀ (ds : List DeviceId) (z : System),
      (ds.foldl (System.rebaseDevice y.cycles) z).status = z.status from key y.devices y
  intro ds
  induction ds with
  | nil => exact fun _ => rfl
  | cons d ds ih => exact fun z => (ih _).trans (by cases d <;> rfl)

theorem State.patch_status (p : Word) (v : Byte) (s : State) : (s.patch p v).2.sys.status = s.sys.status := by
  unfold State.patch
  split
  · split <;> rfl
  · rfl

theorem State.audioCallback_status (n : Nat) (s : State) : (s.audioCallback n).2.sys.status = s.sys.status := by
  unfold State.audioCallback
  split <;> rfl

/-- A host call but `reset` and `load` keeps FatalError (R304). -/
theorem HostCall.apply_fatal {h : HostCall} {s t : State} (hf : s.sys.status.fatal = true) (ht : h.apply s = .next t) :
    t.sys.status.fatal = true ∨ h = .reset ∨ ∃ bytes, h = .load bytes := by
  cases h with
  | reset => exact .inr (.inl rfl)
  | load bytes => exact .inr (.inr ⟨bytes, rfl⟩)
  | execute n =>
    simp only [HostCall.apply, execute_of_fatal hf] at ht
    cases ht
    exact .inl hf
  | peek p => cases ht; exact .inl ((System.peek_effect p s.sys).steady.fatal.trans hf)
  | poke p v => cases ht; exact .inl ((System.poke_effect p v s.sys).steady.fatal.trans hf)
  | patch p v => cases ht; exact .inl ((congrArg _ (s.patch_status p v)).trans hf)
  | resetCycles => cases ht; exact .inl ((congrArg _ s.sys.resetCycles_status).trans hf)
  | audioCallback n => cases ht; exact .inl ((congrArg _ (s.audioCallback_status n)).trans hf)
  | attach d => cases ht; cases d <;> exact .inl hf
  | mute b | stop | irq | nmi | lockDataBus b | lockBank b | bank b | requestCallback k n | takeFragments | setVolume p =>
    cases ht
    exact .inl hf

/-- Settles O8: the entry of `step` and of `execute` finds FatalError; otherwise every path of a step completes. -/
theorem fatalErrorIsStickyAndOnlyStop : Obligations.FatalErrorIsStickyAndOnlyStop :=
  ⟨fun _ hf => ⟨step_of_fatal hf, execute_of_fatal hf⟩, fun _ hr => step_next_of_running hr,
    fun _ _ _ hf ht => HostCall.apply_fatal hf ht⟩

/-! ## Interrupt entry (R313; 70_reset_and_hazards.md R414) -/

/-- `P & 0xEF | 0x20`, the byte an interrupt pushes, is `P` with B clear (10_state.md R27). -/
theorem Flags.toByte_and_or (f : Flags) : f.toByte &&& 0xEF ||| 0x20 = ({ f with b := false } : Flags).toByte := by
  obtain ⟨n, v, b, d, i, z, c⟩ := f
  revert n v b d i z c
  decide

theorem State.interruptEntry_eq (vec : Word) (s : State) : s.interruptEntry vec =
    { s with
      sp := s.sp - 3
      flags := { s.flags with b := false, i := true }
      pc := (((s.idle.idle.pushWord s.pc).push (s.flags.toByte &&& 0xEF ||| 0x20)).read16 vec).1
      lastAccessWasRead := true
      sys := (((s.idle.idle.pushWord s.pc).push (s.flags.toByte &&& 0xEF ||| 0x20)).read16 vec).2.sys } := by
  rw [State.interruptEntry, State.trap_state, Flags.toByte_and_or]
  rfl

theorem State.interruptEntry_sys (vec : Word) (s : State) : (s.interruptEntry vec).sys =
    (((s.idle.idle.pushWord s.pc).push (s.flags.toByte &&& 0xEF ||| 0x20)).read16 vec).2.sys := by
  rw [s.interruptEntry_eq vec]

/-- After an interrupt entry PC and the status byte are on the stack. -/
theorem State.interruptEntry_byteAt {s : State} (h : s.inv = true) (vec : Word) :
    (∀ l ∈ s.writePlaces (stackAddr s.sp), (s.interruptEntry vec).sys.byteAt l = hiByte s.pc)
      ∧ (∀ l ∈ s.writePlaces (stackAddr (s.sp - 1)), (s.interruptEntry vec).sys.byteAt l = loByte s.pc)
      ∧ ∀ l ∈ s.writePlaces (stackAddr (s.sp - 2)),
          (s.interruptEntry vec).sys.byteAt l = s.flags.toByte &&& 0xEF ||| 0x20 := by
  have hd : s.sys.devices = attachOrder := State.devices_of_inv h
  have hpush := State.pushWord_push_byteAt (s := s.idle.idle) h s.pc (s.flags.toByte &&& 0xEF ||| 0x20)
  simp only [State.idle_sp, State.idle_writePlaces_stack] at hpush
  obtain ⟨hhi, hlo, hp⟩ := hpush
  rw [s.interruptEntry_sys vec]
  exact ⟨fun l hl => (State.read16_byteAt_stack hd hl _).trans (hhi l hl),
    fun l hl => (State.read16_byteAt_stack hd hl _).trans (hlo l hl),
    fun l hl => (State.read16_byteAt_stack hd hl _).trans (hp l hl)⟩

/-- Settles O11: two cycles, three pushes and the reads of a vector in ROM, which leave the bytes pushed alone. -/
theorem trapEntry : Obligations.TrapEntry := by
  intro s vec hvec w r t
  have hrun : System.Run 7 (s.pushPlaces 3) s.sys t.sys := by
    obtain rfl | rfl := hvec
    · exact State.interruptEntry_run (by decide) (by decide) s
    · exact State.interruptEntry_run (by decide) (by decide) s
  exact ⟨s.interruptEntry_eq vec, fun h => State.interruptEntry_byteAt h vec, hrun.kept, hrun.cycles⟩

end Sys2Proof.Machine
end

section
/-! RIOT ports, edge control and interval timer on the bus (60_exceptions.md R320 to R328). -/

namespace Sys2Proof.Machine

/-! ## Address bits -/

theorem toNat_busAddr_setWidth_two (p : Word) : ((busAddr p).setWidth 2).toNat = p.toNat % 4 := by
  rw [BitVec.toNat_setWidth, busAddr_toNat]
  omega

theorem busAddr_setWidth_two_eq_iff (p : Word) (k : BitVec 2) : (busAddr p).setWidth 2 = k ↔ p.toNat % 4 = k.toNat := by
  rw [← BitVec.toNat_inj, toNat_busAddr_setWidth_two]

/-! ## Register accesses (R321) -/

section Registers
variable {y : System} (hd : y.devices = attachOrder) {p : Word} (h12 : p.getLsbD 12 = false) (h9 : p.getLsbD 9 = true)
  (h7 : p.getLsbD 7 = true)
include hd h12 h9 h7

theorem System.pageAccess_riotRegisters :
    y.pageAccess (busAddr p) = { directPeek := none, directPoke := none, device := .riot } := by
  rw [← busAddr_getLsbD (by decide)] at h12 h9 h7
  rw [System.pageAccess_riot hd h12 h7, if_pos h9]

theorem System.peek_riotRegisters :
    (y.peek p).1 = (y.riotPeek (busAddr p)).1 ∧ (y.peek p).2.riot = (y.riotPeek (busAddr p)).2.riot := by
  simp [System.peek, System.fetchByte, System.pageAccess_riotRegisters hd h12 h9 h7, System.devicePeek]

theorem System.poke_riotRegisters (v : Byte) :
    (y.poke p v).riot = y.pa7Draw.riot.poke (busAddr p) v y.cycles := by
  simp only [System.poke, System.feObserve_riot, System.putByte, System.pageAccess_riotRegisters hd h12 h9 h7]
  rfl

end Registers

/-- The system in which an access of INTIM at `a` reads the timer: after PA7's draw, with the timer's interrupt enabled or
not by bit 3 of the address. -/
def System.intimAccess (a : BusAddr) (y : System) : System :=
  y.pa7Draw.setRiot { y.pa7Draw.riot with timerIrqEn := a.getLsbD 3 }

section RegisterKinds
variable {a : BusAddr}

theorem System.riotPeek_port (h2 : a.getLsbD 2 = false) (y : System) :
    y.riotPeek a = y.pa7Draw.portRead (a.setWidth 2) := by
  rw [System.riotPeek, h2]; rfl

theorem System.riotPeek_intim (h2 : a.getLsbD 2 = true) (h0 : a.getLsbD 0 = false) (y : System) :
    y.riotPeek a = (y.intimAccess a).intimRead := by
  rw [System.riotPeek, h2, h0]; rfl

theorem System.riotPeek_timint (h2 : a.getLsbD 2 = true) (h0 : a.getLsbD 0 = true) (y : System) :
    y.riotPeek a = y.pa7Draw.timintRead := by
  rw [System.riotPeek, h2, h0]; rfl

theorem Riot.poke_port (h2 : a.getLsbD 2 = false) (v : Byte) (t : U32) (r : Riot) :
    r.poke a v t = r.portWrite (a.setWidth 2) v := by
  rw [Riot.poke, h2]; rfl

theorem Riot.poke_timer (h2 : a.getLsbD 2 = true) (h4 : a.getLsbD 4 = true) (v : Byte) (t : U32) (r : Riot) :
    r.poke a v t = r.timerWrite (a.setWidth 2) (a.getLsbD 3) v t := by
  rw [Riot.poke, h2, h4]; rfl

theorem Riot.poke_edge (h2 : a.getLsbD 2 = true) (h4 : a.getLsbD 4 = false) (v : Byte) (t : U32) (r : Riot) :
    r.poke a v t = r.edgeWrite (a.getLsbD 1) (a.getLsbD 0) := by
  rw [Riot.poke, h2, h4]; rfl

end RegisterKinds

/-! ## The interval timer (R325, R326) -/

theorem intervalOf_shift (k : BitVec 2) : (intervalOf k).shift = [0, 3, 6, 10].getD k.toNat 0 := by
  revert k
  decide

theorem System.intimRead_of_counting {y : System} (h : y.riot.elapsed y.cycles < y.riot.span) :
    y.intimRead = (y.riot.counting y.cycles, y) :=
  if_neg (by simpa [Riot.expired] using h)

theorem System.intimRead_of_expired {y : System} (h : y.riot.span ≤ y.riot.elapsed y.cycles) :
    y.intimRead.2.riot = { y.riot with timerFlagCleared := true }
      ∧ (y.cfg.underflow = .continue1T → y.intimRead.1 = y.riot.afterUnderflow y.cycles) := by
  have hx : y.riot.expired y.cycles = true := decide_eq_true h
  rw [System.intimRead, if_pos hx]
  cases y.cfg.underflow with
  | continue1T => exact ⟨rfl, fun _ => rfl⟩
  | draw => exact ⟨rfl, fun h => nomatch h⟩

/-- The count after expiry, in integers: down from $FF by one a cycle. -/
theorem Riot.afterUnderflow_eq {r : Riot} {t : U32} (h : r.span ≤ r.elapsed t) :
    r.afterUnderflow t = BitVec.ofInt 8 (0xFF - ((r.elapsed t : Int) - r.span)) := by
  rw [← Int.natCast_sub h, Int.sub_eq_add_neg, BitVec.ofInt_add, BitVec.ofInt_neg, BitVec.ofInt_natCast,
    ← BitVec.sub_eq_add_neg]
  rfl

/-- Settles O48: on the timer's addresses a poke is `timerWrite` and a peek is `intimRead`, each after PA7's draw. -/
theorem riotTimer : Obligations.RiotTimer := by
  intro y p hd h12 h9 h7 h2 d e
  have h3 : (busAddr p).getLsbD 3 = p.getLsbD 3 := busAddr_getLsbD (by decide) p
  rw [← busAddr_getLsbD (by decide)] at h2
  refine ⟨fun h4 v => ?write, fun h0 => ?read⟩
  case write =>
    rw [← busAddr_getLsbD (by decide)] at h4
    rw [System.poke_riotRegisters hd h12 h9 h7, Riot.poke_timer h2 h4, ← toNat_busAddr_setWidth_two]
    exact ⟨rfl, intervalOf_shift _, rfl, rfl, h3⟩
  case read =>
    rw [← busAddr_getLsbD (by decide)] at h0
    obtain ⟨hval, hriot⟩ := System.peek_riotRegisters hd h12 h9 h7
    rw [System.riotPeek_intim h2 h0] at hval hriot
    rw [hval, hriot]
    rcases Nat.lt_or_ge d e with hlt | hge
    · rw [System.intimRead_of_counting (y := y.intimAccess (busAddr p)) hlt]
      exact ⟨h3, fun _ => ⟨congrArg (fun n => BitVec.ofNat 8 (_ - n)) (Nat.shiftRight_eq_div_pow d _), rfl⟩,
        fun h => absurd h (Nat.not_le.2 hlt)⟩
    · obtain ⟨hr, hv⟩ := System.intimRead_of_expired (y := y.intimAccess (busAddr p)) hge
      rw [hr]
      exact ⟨h3, fun h => absurd h (Nat.not_lt.2 hge), fun _ => ⟨rfl, fun hu => (hv hu).trans (Riot.afterUnderflow_eq hge)⟩⟩

/-! ## Ports, edge control and TIMINT (R323, R324, R327, R328) -/

theorem portValue_getLsbD_of_output {dr ddr pins : Byte} {j : Nat} (h : ddr.getLsbD j = true) :
    (portValue dr ddr pins).getLsbD j = dr.getLsbD j := by
  simp only [portValue, BitVec.getLsbD_or, BitVec.getLsbD_and, BitVec.getLsbD_not, h, Bool.not_true, Bool.and_true,
    Bool.and_false, Bool.or_false]

theorem Riot.portWrite_registers (k : BitVec 2) (v : Byte) (r : Riot) :
    (r.portWrite k v).dra = (if k = 0 then v else r.dra) ∧ (r.portWrite k v).ddra = (if k = 1 then v else r.ddra)
      ∧ (r.portWrite k v).drb = (if k = 2 then v else r.drb) ∧ (r.portWrite k v).ddrb = (if k = 3 then v else r.ddrb) := by
  obtain rfl | rfl | rfl | rfl : k = 0 ∨ k = 1 ∨ k = 2 ∨ k = 3 := by revert k; decide
  all_goals exact ⟨rfl, rfl, rfl, rfl⟩

theorem System.portRead_direction (y : System) : (y.portRead 1).1 = y.riot.ddra ∧ (y.portRead 3).1 = y.riot.ddrb :=
  ⟨rfl, rfl⟩

theorem System.portRead_data (y : System) (j : Nat) :
    (y.riot.ddra.getLsbD j = true → (y.portRead 0).1.getLsbD j = y.riot.dra.getLsbD j)
      ∧ (y.riot.ddrb.getLsbD j = true → (y.portRead 2).1.getLsbD j = y.riot.drb.getLsbD j) :=
  ⟨portValue_getLsbD_of_output, portValue_getLsbD_of_output⟩

theorem Riot.timint_getLsbD (r : Riot) (t : U32) (drawn : Byte) :
    (r.timint t drawn).getLsbD 7 = r.timerFlag t ∧ (r.timint t drawn).getLsbD 6 = r.pa7Flag := by
  simp only [Riot.timint, BitVec.getLsbD_append, BitVec.getLsbD_ofBool]
  simp

/-- Settles O49: each access is its register's own after PA7's draw, which can only set `pa7_flag`. -/
theorem riotPortsAndFlags : Obligations.RiotPortsAndFlags := by
  intro y p hd h12 h9 h7 k r
  have hk (j : BitVec 2) : (busAddr p).setWidth 2 = j ↔ k = j.toNat := busAddr_setWidth_two_eq_iff p j
  obtain ⟨hval, hriot⟩ := System.peek_riotRegisters hd h12 h9 h7
  have hpoke := System.poke_riotRegisters hd h12 h9 h7
  refine ⟨fun h2 => ?ports, fun h2 h4 v => ?edge, fun h2 h0 => ?timint⟩
  case ports =>
    rw [← busAddr_getLsbD (by decide)] at h2
    rw [hval, System.riotPeek_port h2]
    refine ⟨fun v => ?write, fun h => ?_, fun h => ?_, fun h j hj => ?_, fun h j hj => ?_⟩
    case write =>
      have hw := y.pa7Draw.riot.portWrite_registers ((busAddr p).setWidth 2) v
      simp only [hk] at hw
      rw [hpoke, Riot.poke_port h2]
      exact hw
    · rw [(hk 1).2 h]; exact y.pa7Draw.portRead_direction.1
    · rw [(hk 3).2 h]; exact y.pa7Draw.portRead_direction.2
    · rw [(hk 0).2 h]; exact (y.pa7Draw.portRead_data j).1 hj
    · rw [(hk 2).2 h]; exact (y.pa7Draw.portRead_data j).2 hj
  case edge =>
    rw [← busAddr_getLsbD (by decide)] at h2 h4
    rw [hpoke, Riot.poke_edge h2 h4]
    exact ⟨busAddr_getLsbD (by decide) p, busAddr_getLsbD (by decide) p⟩
  case timint =>
    rw [← busAddr_getLsbD (by decide)] at h2 h0
    obtain ⟨hbit7, hbit6⟩ := y.pa7Draw.riot.timint_getLsbD y.cycles y.pa7Draw.drawByte.1
    rw [System.riotPeek_timint h2 h0] at hval hriot
    rw [hval, hriot]
    refine ⟨hbit7.trans ?_, fun h => hbit6.trans (Bool.or_eq_true_iff.2 (.inl h)), rfl, rfl⟩
    rw [Bool.decide_and, Bool.decide_eq_false]
    rfl

end Sys2Proof.Machine
end

section
/-! The synthesizer: register writes, the divider and the waveform clock (60_exceptions.md R340 to R351). -/

namespace Sys2Proof.Machine

/-! ## Register writes and the divider (R340, R342) -/

theorem dividerPeriod_toNat (m : BitVec 4) (f : BitVec 5) : (dividerPeriod m f).toNat =
    if m.toNat = 0 ∨ m.toNat = 11 then 0
    else if m.toNat = 12 ∨ m.toNat = 13 ∨ m.toNat = 14 then (f.toNat + 1) * 3 else f.toNat + 1 := by
  have stopped : (m = 0 ∨ m = 11) ↔ m.toNat = 0 ∨ m.toNat = 11 := by
    rw [← BitVec.toNat_inj, ← BitVec.toNat_inj]; rfl
  have tripled : (m &&& 0x0C = 0x0C ∧ m ≠ 15) ↔ m.toNat = 12 ∨ m.toNat = 13 ∨ m.toNat = 14 := by revert m; decide
  have hf := f.isLt
  simp only [dividerPeriod, stopped, tripled]
  split
  · rfl
  · split <;> bv_omega

/-- The channel with the masked value of a register write stored, before its divider is updated. -/
def Channel.store (r : SoundReg) (v : Byte) (ch : Channel) : Channel :=
  { ch with
    audc := if r = .audc then v.setWidth 4 else ch.audc
    audf := if r = .audf then v.setWidth 5 else ch.audf
    audv := if r = .audv then v.setWidth 4 else ch.audv }

theorem Channel.setReg_eq_redivide (r : SoundReg) (v : Byte) (ch : Channel) : ch.setReg r v = (ch.store r v).redivide := by
  cases r <;> rfl

/-- A stopped divider whose period changes restarts, and one whose period becomes 0 stops. -/
theorem Channel.redivide_divCnt (ch : Channel) : ch.redivide.divCnt =
    if ch.redivide.divMax ≠ ch.divMax ∧ (ch.divCnt = 0 ∨ ch.redivide.divMax = 0) then ch.redivide.divMax
    else ch.divCnt := by
  unfold Channel.redivide
  by_cases hp : dividerPeriod ch.audc ch.audf = ch.divMax
  · simp [hp]
  · simp [hp]

/-- Settles O51: a write is a masked store and a divider update, which touches nothing but the divider. -/
theorem synthRegisterWrite : Obligations.SynthRegisterWrite := by
  refine ⟨fun u v => ⟨rfl, rfl, rfl, rfl, rfl, rfl⟩, fun r v ch => ?_⟩
  rw [ch.setReg_eq_redivide r v]
  have hcnt := (ch.store r v).redivide_divCnt
  have heq := (ch.store r v).redivide_eq
  generalize (ch.store r v).redivide = t at hcnt heq
  intro _ m period
  have hmax : t.divMax = dividerPeriod t.audc t.audf := by rw [heq]
  have hperiod : t.divMax.toNat = period := (congrArg BitVec.toNat hmax).trans (dividerPeriod_toNat _ _)
  have hstop : t.divMax = 0 ↔ period = 0 := by rw [← hperiod, ← BitVec.toNat_inj]; rfl
  have hdivCnt : t.divCnt = if t.divMax ≠ ch.divMax ∧ (ch.divCnt = 0 ∨ period = 0) then t.divMax else ch.divCnt := by
    simp only [← hstop]
    exact hcnt
  exact ⟨congrArg Channel.audc heq, congrArg Channel.audf heq, congrArg Channel.audv heq, hperiod, hdivCnt,
    (congrArg Channel.p4 heq).trans rfl, (congrArg Channel.p5 heq).trans rfl, (congrArg Channel.p9 heq).trans rfl,
    (congrArg Channel.out heq).trans rfl, (congrArg Channel.div3Cnt heq).trans rfl⟩

/-! ## The waveform clock (R343, R351) -/

theorem Channel.tick_underflow (t : WaveTables) {ch : Channel} (h : ch.divCnt = 1) :
    let base : Channel := { ch with divCnt := ch.divMax, p5 := ch.p5 + 1 }
    let changed := seqAt t.poly5 base.p5 != seqAt t.poly5 ch.p5
    ch.tick t = if base.clocks t changed then base.clocked t changed else base := by
  have hlt : ¬1 < ch.divCnt.toNat := by rw [h]; decide
  rw [Channel.tick, if_neg hlt, if_pos h]

/-- Mode 15: whatever clocks it, it acts only where `poly5_seq` changed, and then on every third change. -/
theorem Channel.clocked_mode15 (t : WaveTables) (changed : Bool) {ch : Channel} (h : ch.audc = 15) :
    (if ch.clocks t changed then ch.clocked t changed else ch) =
      if changed then
        (if ch.div3Cnt = 1 then { ch with div3Cnt := 3, out := !ch.out } else { ch with div3Cnt := ch.div3Cnt - 1 })
      else ch := by
  have hcnt : ch.div3Cnt - 1 = 0 ↔ ch.div3Cnt = 1 := sub_eq_zero
  simp only [Channel.clocked, h, if_true, hcnt]
  cases changed with
  | false => exact ite_self ch
  | true => simp [Channel.clocks, h]

/-- The values of AUDC, the one with an action of its own first. -/
theorem mode_cases (m : BitVec 4) : m = 15 ∨ m = 0 ∨ m = 1 ∨ m = 2 ∨ m = 3 ∨ m = 4 ∨ m = 5 ∨ m = 6 ∨ m = 7 ∨ m = 8 ∨ m = 9
    ∨ m = 10 ∨ m = 11 ∨ m = 12 ∨ m = 13 ∨ m = 14 := by
  revert m
  decide

/-- Settles O52: with the mode known, the clock's condition and its action evaluate to the table's row; mode 15 is
`clocked_mode15`. -/
theorem waveformByMode : Obligations.WaveformByMode := by
  intro t ch h q base div31 poly5 changed p4 toggle
  rw [Channel.tick_underflow t h]
  obtain hm | hm | hm | hm | hm | hm | hm | hm | hm | hm | hm | hm | hm | hm | hm | hm := mode_cases ch.audc
  · refine (Channel.clocked_mode15 t changed (ch := base) hm).trans ?_
    simp [hm, base]
  all_goals
    simp [Channel.clocks, Channel.clocked, seqAt, hm, base, q, div31, poly5, p4, toggle]

end Sys2Proof.Machine
end

section
/-! The fragment callback: how many samples it emits, the drain before it and the stamp after it (60_exceptions.md R355 to
R363). -/

namespace Sys2Proof.Machine

/-! ## How many samples are emitted (R355, R356, R360) -/

theorem Audio.sample_length (cfg : Config) (u : Audio) : (u.sample cfg).length = cfg.channels.count :=
  List.length_replicate

/-- The inner loop emits `j` of the `k` samples, each for `tiafreq` of the counter, and ends with none left or the counter
below `tiafreq`. -/
theorem Audio.emitReady_spec {cfg : Config} (hfreq : cfg.tiaFreq < 2 ^ 32) : ∀ (k : Nat) (u : Audio),
    let r := Audio.emitReady cfg k u
    ∃ j, r.1 + j = k ∧ r.2.1.length = j * cfg.channels.count
      ∧ r.2.2.outputCounter.toNat + j * cfg.tiaFreq = u.outputCounter.toNat
      ∧ (r.1 = 0 ∨ r.2.2.outputCounter.toNat < cfg.tiaFreq)
  | 0, u => ⟨0, by simp [Audio.emitReady]⟩
  | k + 1, u => by
    simp only [Audio.emitReady]
    split
    · next hready =>
      obtain ⟨j, hleft, hlen, hcounter, hend⟩ := Audio.emitReady_spec hfreq k
        { u with outputCounter := u.outputCounter - BitVec.ofNat 32 cfg.tiaFreq }
      have hsub : (u.outputCounter - BitVec.ofNat 32 cfg.tiaFreq).toNat = u.outputCounter.toNat - cfg.tiaFreq := by
        have := Nat.mod_eq_of_lt hfreq
        rw [BitVec.toNat_sub_of_le (by rw [BitVec.le_def, BitVec.toNat_ofNat, this]; exact hready), BitVec.toNat_ofNat, this]
      refine ⟨j + 1, by omega, ?_, ?_, hend⟩
      · rw [List.length_append, Audio.sample_length, hlen, Nat.add_mul, Nat.one_mul, Nat.add_comm]
      · rw [hsub] at hcounter
        rw [Nat.add_mul, Nat.one_mul, ← Nat.add_assoc]
        exact (congrArg (· + cfg.tiaFreq) hcounter).trans (Nat.sub_add_cancel hready)
    · next hwait => exact ⟨0, by simp, by simp, by simp, .inr (Nat.not_le.1 hwait)⟩

section Process
variable {cfg : Config} (hfreq : cfg.tiaFreq < 2 ^ 32)
include hfreq

/-- One tick: what the inner loop has not emitted is left to the ticks after it. -/
theorem Audio.processLoop_succ_length {fuel k : Nat} {u : Audio}
    (rest : ∀ k' j (w : Audio), k' + j = k → (k' = 0 ∨ w.outputCounter.toNat < cfg.tiaFreq) →
      w.outputCounter.toNat + j * cfg.tiaFreq = (u.outputCounter + BitVec.ofNat 32 cfg.hostRate).toNat →
      (Audio.processLoop cfg fuel k' w).1.length = k' * cfg.channels.count) :
    (Audio.processLoop cfg (fuel + 1) k u).1.length = k * cfg.channels.count := by
  simp only [Audio.processLoop]
  split
  · next hk => simp [hk]
  · obtain ⟨j, hleft, hlen, hcounter, hend⟩ := Audio.emitReady_spec hfreq k
      { u.tick cfg with outputCounter := (u.tick cfg).outputCounter + BitVec.ofNat 32 cfg.hostRate }
    rw [List.length_append, hlen, rest _ j _ hleft hend hcounter, ← Nat.add_mul, Nat.add_comm, hleft]

/-- Without wrapping the counter the ticks emit every sample they pay for. -/
theorem Audio.processLoop_length (hsum : cfg.hostRate + cfg.tiaFreq < 2 ^ 32) : ∀ (fuel k : Nat) (u : Audio),
    (k = 0 ∨ u.outputCounter.toNat < cfg.tiaFreq) →
    k * cfg.tiaFreq ≤ fuel * cfg.hostRate + u.outputCounter.toNat →
    (Audio.processLoop cfg fuel k u).1.length = k * cfg.channels.count
  | 0, k, u, hlow, hpaid => by
    have hk : k = 0 := by
      rcases hlow with hk | hlow
      · exact hk
      · rw [Nat.zero_mul, Nat.zero_add] at hpaid
        by_contra hne
        have := Nat.le_mul_of_pos_left cfg.tiaFreq (Nat.pos_of_ne_zero hne)
        omega
    simp [Audio.processLoop, hk]
  | fuel + 1, k, u, hlow, hpaid => by
    rcases hlow with rfl | hlow
    · simp [Audio.processLoop]
    refine Audio.processLoop_succ_length hfreq fun k' j w hleft hend hcounter => ?_
    refine Audio.processLoop_length hsum fuel k' w hend ?_
    have hadd : (u.outputCounter + BitVec.ofNat 32 cfg.hostRate).toNat = u.outputCounter.toNat + cfg.hostRate := by
      rw [BitVec.toNat_add, BitVec.toNat_ofNat]
      omega
    rw [hadd] at hcounter
    rw [← hleft, Nat.add_mul, Nat.add_mul, Nat.one_mul] at hpaid
    omega

/-- `process` emits every sample asked for: whatever the counter is, one tick and its samples take it below `tiafreq`. -/
theorem Audio.process_length (hrate : 0 < cfg.hostRate) (hsum : cfg.hostRate + cfg.tiaFreq < 2 ^ 32) (k : Nat) (u : Audio) :
    (u.process cfg k).1.length = k * cfg.channels.count := by
  refine Audio.processLoop_succ_length hfreq fun k' j w hleft hend _ => ?_
  refine Audio.processLoop_length hfreq hsum _ k' w hend ?_
  have hround : cfg.tiaFreq ≤ (cfg.tiaFreq / cfg.hostRate + 1) * cfg.hostRate := by
    have := Nat.lt_div_mul_add hrate (a := cfg.tiaFreq)
    rw [Nat.add_mul, Nat.one_mul]
    omega
  calc k' * cfg.tiaFreq ≤ k * ((cfg.tiaFreq / cfg.hostRate + 1) * cfg.hostRate) :=
        Nat.mul_le_mul (by omega) hround
    _ ≤ _ := by rw [← Nat.mul_assoc]; exact Nat.le_add_right _ _

end Process

/-- The loop over the queue splits the fragment into segments. -/
theorem Audio.fragment_length {cfg : Config}
    (emit : ∀ k (u : Audio), (u.process cfg k).1.length = k * cfg.channels.count) :
    ∀ (q : List QueueEntry) (position remaining : F64) (left : Nat) (u : Audio),
    (Audio.fragment cfg q position remaining left u).1.length = left * cfg.channels.count
  | [], _, _, left, u => emit left u
  | e :: q, position, remaining, left, u => by
    simp only [Audio.fragment]
    split
    · split
      · rw [List.length_append, emit, Audio.fragment_length emit q, ← Nat.add_mul, Nat.add_sub_of_le]
        exact Nat.min_le_right _ _
      · exact Audio.fragment_length emit q _ _ _ _
    · exact emit left u

/-- Settles O53: `process` emits each segment's samples whole, and the segments add up to the fragment. -/
theorem callbackEmitsWholeFragment : Obligations.CallbackEmitsWholeFragment := by
  intro s n hwf hsound hmute
  have hrun : (soundEnabled s.sys.cfg && !s.sys.audio.muted) = true := by rw [hsound, hmute]; rfl
  simp only [Config.wf, Bool.and_eq_true, decide_eq_true_eq] at hwf
  obtain ⟨⟨⟨⟨-, hrate⟩, -⟩, hsum⟩, -⟩ := hwf
  rw [State.audioCallback, if_pos hrun]
  exact ⟨Audio.fragment_length (Audio.process_length (by omega) hrate hsum) _ _ _ _ _, rfl⟩

/-! ## The drain (R362) -/

/-- The drain's inner loop drops the front of the queue, applies it in order and stops where the rest is short enough. -/
theorem Audio.drainTo_spec (bound : F64) : ∀ (q : List QueueEntry) (u : Audio),
    let w := Audio.drainTo bound q u
    ∃ dropped, q = dropped ++ w.queue
      ∧ w = { dropped.foldl (fun w e => w.synthSet e.addr e.value) u with queue := w.queue }
      ∧ (w.queue = [] ∨ F64.lt bound (queueDuration w.queue) = false)
      ∧ ∀ before after, dropped = before ++ after → after ≠ [] →
        F64.lt bound (queueDuration (after ++ w.queue)) = true
  | [], u => ⟨[], rfl, rfl, .inl rfl, fun _ _ h hne => absurd (List.append_eq_nil_iff.1 h.symm).2 hne⟩
  | e :: q, u => by
    simp only [Audio.drainTo]
    split
    · next hlong =>
      obtain ⟨dropped, hqueue, hstate, hend, hlonger⟩ := Audio.drainTo_spec bound q (u.synthSet e.addr e.value)
      refine ⟨e :: dropped, congrArg (e :: ·) hqueue, hstate, hend, fun before after hsplit hne => ?_⟩
      cases before with
      | nil =>
        rw [List.nil_append] at hsplit
        rw [← hsplit, List.cons_append, ← hqueue]
        exact hlong
      | cons b before =>
        obtain ⟨-, hsplit⟩ := List.cons.inj hsplit
        exact hlonger before after hsplit hne
    · next hshort =>
      exact ⟨[], rfl, rfl, .inr (Bool.eq_false_iff.2 hshort),
        fun _ _ h hne => absurd (List.append_eq_nil_iff.1 h.symm).2 hne⟩

/-- Settles O54: a short queue stays, and a long one goes through the drain's loop. -/
theorem drainBoundsQueue : Obligations.DrainBoundsQueue := by
  intro cfg u log2
  refine ⟨fun hshort => if_neg (Bool.eq_false_iff.1 hshort), fun hlong => ?_⟩
  have hdrain : u.drain cfg = Audio.drainTo (framesToSeconds cfg (log2 - 1)) u.queue u := if_pos hlong
  rw [hdrain]
  exact Audio.drainTo_spec _ u.queue u

/-- Settles O55: the callback's frame, without what it says of the schedule and of legal states. -/
theorem starvationZeroesStamp : Obligations.StarvationZeroesStamp := by
  intro cfg n u
  obtain ⟨hvolume, hmuted, -, -, hstarved, hfed, hshorter, -⟩ := u.callback_keeps cfg n
  exact ⟨hstarved, hfed, hshorter, hvolume, hmuted⟩

end Sys2Proof.Machine
end

section
/-! The host's controls (60_exceptions.md R301, R307, R308, R365, R368; 10_state.md R31, R32; 20_memory.md R82). -/

namespace Sys2Proof.Machine

theorem clampVolume_val (p : Int) : ((clampVolume p).val : Int) = max 0 (min p 100) := by
  have hval : (clampVolume p).val = min p.toNat 100 := Nat.mod_eq_of_lt (by omega)
  omega

/-- Settles O56: each control is one update of the field it names; the volume's clamp is `clampVolume_val`. -/
theorem hostControls : Obligations.HostControls :=
  fun _ => ⟨rfl, rfl, rfl, fun _ => rfl, fun _ => rfl, rfl, rfl, fun _ _ => rfl, rfl, fun p => ⟨rfl, clampVolume_val p⟩⟩

end Sys2Proof.Machine
end

section
/-! What a successful load leaves: canonical stores, legal banks and legal sound channels whatever the bytes were
(70_reset_and_hazards.md R444, R445; 20_memory.md R95; 60_exceptions.md R369). -/

namespace Sys2Proof.Machine

/-! ## One device replaced in a legal system -/

section Replace
variable {y : System} (h : y.inv = true)
include h

theorem System.inv_setRiot {r : Riot} (hr : Memory.wf 128 r.ram = true) : (y.setRiot r).inv = true := by
  obtain ⟨-, -, -, -, hcart, haudio⟩ := (System.inv_iff y).1 h
  exact System.inv_of_same h rfl rfl hr rfl hcart haudio

theorem System.inv_setAudio {u : Audio} (hu : u.wf = true) : (y.setAudio u).inv = true := by
  obtain ⟨-, -, -, hram, hcart, -⟩ := (System.inv_iff y).1 h
  exact System.inv_of_same h rfl rfl hram rfl hcart hu

theorem System.inv_setCart_of_wf {c : Cart} (hv : c.variant = y.cart.variant) (hc : c.wf = true) :
    (y.setCart c).inv = true := by
  obtain ⟨-, -, -, hram, -, haudio⟩ := (System.inv_iff y).1 h
  exact System.inv_of_same h rfl rfl hram hv hc haudio

end Replace

/-! ## Reading off a stream -/

/-- A property of what a reader answers holds if every answer of its first part leads to it. -/
theorem forall_mem_bind {α β : Type} {o : Option α} {f : α → Option β} {P : β → Prop}
    (h : ∀ a ∈ o, ∀ b ∈ f a, P b) : ∀ b ∈ o >>= f, P b := fun _ hb =>
  have ⟨a, ha, hb⟩ := Option.bind_eq_some_iff.1 hb
  h a ha _ hb

theorem forall_mem_some {β : Type} {b : β} {P : β → Prop} (h : P b) : ∀ c ∈ some b, P c := fun _ hc =>
  Option.some.inj hc ▸ h

theorem forall_mem_ite {β : Type} {c : Prop} [Decidable c] {o : Option β} {P : β → Prop} (h : ∀ b ∈ o, P b) :
    ∀ b ∈ if c then o else none, P b := by
  split
  · exact h
  · exact fun _ hb => nomatch hb

/-- The store built from bytes is canonical. -/
theorem Memory.wfFrom_ofBytes {size : Nat} : ∀ {k : Nat} {bs : List Byte}, k + bs.length ≤ size →
    Memory.wfFrom size k (Memory.ofBytes k bs) = true
  | _, [], _ => rfl
  | k, b :: bs, h => by
    rw [List.length_cons] at h
    have ih : Memory.wfFrom size (k + 1) (Memory.ofBytes (k + 1) bs) = true := Memory.wfFrom_ofBytes (by omega)
    rw [Memory.ofBytes]
    split
    · exact Memory.wfFrom_mono (Nat.le_succ k) ih
    · next hb => simp [Memory.wfFrom, hb, ih, show k < size by omega]

theorem getByteInts_length : ∀ (n : Nat) (bs : List Byte), ∀ r ∈ getByteInts n bs, r.1.length = n
  | 0, _ => forall_mem_some rfl
  | n + 1, _ => forall_mem_bind fun _ _ => forall_mem_bind fun r hr =>
      forall_mem_some (congrArg Nat.succ (getByteInts_length n _ r hr))

/-- A byte array read off a stream is a canonical store. -/
theorem getBytes_wf (n : Nat) (bs : List Byte) : ∀ r ∈ getBytes n bs, Memory.wf n (Memory.ofBytes 0 r.1) = true :=
  forall_mem_bind fun _ _ => forall_mem_ite fun r hr =>
    Memory.wfFrom_ofBytes (by rw [getByteInts_length n _ r hr, Nat.zero_add])

/-! ## Devices -/

theorem Riot.load_wf (bs : List Byte) : ∀ r ∈ Riot.load bs, Memory.wf 128 r.1.ram = true := by
  refine forall_mem_bind fun _ _ => forall_mem_bind fun ram hram => ?_
  have hwf := getBytes_wf 128 _ ram hram
  iterate 13 refine forall_mem_bind fun _ _ => ?_
  exact forall_mem_some hwf

/-- Bank registers wrap as they are loaded, so legal banks stay legal (20_memory.md R91). -/
theorem Cart.loadRegs_banksWf {c : Cart} (h : c.banksWf = true) (bs : List Byte) :
    ∀ r ∈ c.loadRegs bs, c.SameStores r.1 ∧ r.1.banksWf = true := by
  obtain ⟨hsize, hbank, hslot1, hslot2, hram, hsel, hfe⟩ := (Cart.banksWf_iff c).1 h
  unfold Cart.loadRegs
  split
  · next hv =>
    have hram (k : Nat) : k % 32 < c.variant.ramBanks := by rw [hv]; exact Nat.mod_lt k (by decide)
    exact forall_mem_bind fun _ _ => forall_mem_bind fun _ _ => forall_mem_some
      ⟨⟨rfl, rfl, rfl, rfl, rfl, rfl⟩, (Cart.banksWf_iff _).2 ⟨hsize, hbank, hslot1, hslot2, hram _, fun _ => hv, hfe⟩⟩
  · next hv =>
    have hcount (k : Nat) : k % 8 < c.bankCount := by rw [Cart.bankCount, hv]; exact Nat.mod_lt k (by decide)
    exact forall_mem_bind fun _ _ => forall_mem_bind fun _ _ => forall_mem_bind fun _ _ => forall_mem_bind fun _ _ =>
      forall_mem_some ⟨⟨rfl, rfl, rfl, rfl, rfl, rfl⟩, (Cart.banksWf_iff _).2
        ⟨hsize, hcount _, Nat.mod_lt _ (by decide), Nat.mod_lt _ (by decide), hram, hsel, hfe⟩⟩
  · next hv =>
    have hcount (k : Nat) : k % 8 < c.bankCount := by rw [Cart.bankCount, hv]; exact Nat.mod_lt k (by decide)
    have hram (k : Nat) : k % 4 < c.variant.ramBanks := by rw [hv]; exact Nat.mod_lt k (by decide)
    exact forall_mem_bind fun _ _ => forall_mem_bind fun _ _ => forall_mem_some
      ⟨⟨rfl, rfl, rfl, rfl, rfl, rfl⟩, (Cart.banksWf_iff _).2 ⟨hsize, hcount _, hslot1, hslot2, hram _, hsel, hfe⟩⟩
  · next hv =>
    exact forall_mem_bind fun _ _ => forall_mem_some
      ⟨⟨rfl, rfl, rfl, rfl, rfl, rfl⟩, (Cart.banksWf_iff _).2 ⟨hsize, hbank, hslot1, hslot2, hram, hsel, fun _ => hv⟩⟩
  · exact forall_mem_some ⟨.refl c, h⟩

theorem Cart.loadRam_wf {c : Cart} (h : c.wf = true) (bs : List Byte) :
    ∀ r ∈ c.loadRam bs, r.1.variant = c.variant ∧ r.1.wf = true := by
  unfold Cart.loadRam
  split
  · exact forall_mem_some ⟨rfl, h⟩
  · refine forall_mem_bind fun ram hram => forall_mem_some ⟨rfl, ?_⟩
    obtain ⟨hbanks, hrom, -⟩ := (Cart.wf_iff c).1 h
    exact (Cart.wf_iff _).2 ⟨hbanks, hrom, getBytes_wf _ _ ram hram⟩

theorem Cart.load_wf {c : Cart} (h : c.wf = true) (bs : List Byte) :
    ∀ r ∈ c.load bs, r.1.variant = c.variant ∧ r.1.wf = true := by
  refine forall_mem_bind fun _ _ => forall_mem_bind fun bank _ => forall_mem_bind fun r hr => ?_
  obtain ⟨hbanks, hstores⟩ := (Cart.wf_iff c).1 h
  obtain ⟨hsize, -, hrest⟩ := (Cart.banksWf_iff c).1 hbanks
  have hbank : ({ c with currentBank := bank.1 % c.bankCount } : Cart).banksWf = true :=
    (Cart.banksWf_iff _).2 ⟨hsize, Nat.mod_lt _ (Cart.bankCount_pos hsize), hrest⟩
  obtain ⟨hsame, hregs⟩ := Cart.loadRegs_banksWf hbank _ r hr
  have hwf : r.1.wf = true := Cart.wf_of_sameStores ((Cart.wf_iff _).2 ⟨hbank, hstores⟩) hsame hregs
  exact fun d hd => (Cart.loadRam_wf hwf _ d hd).imp_left fun e => e.trans hsame.variant

theorem Audio.SynthOnly.wf {u w : Audio} (h : u.SynthOnly w) (hu : u.wf = true) : w.wf = true := by
  obtain ⟨h0, h1, hq⟩ := (Audio.wf_iff u).1 hu
  exact (Audio.wf_iff w).2 ⟨h.ch0 h0, h.ch1 h1, h.queue ▸ hq⟩

theorem Audio.wf_setLastSetCycle {u : Audio} (h : u.wf = true) (t : U32) :
    ({ u with lastSetCycle := t } : Audio).wf = true := h

theorem Audio.wf_clearQueue {u : Audio} (h : u.wf = true) : ({ u with queue := [] } : Audio).wf = true := by
  obtain ⟨h0, h1, -⟩ := (Audio.wf_iff u).1 h
  exact (Audio.wf_iff _).2 ⟨h0, h1, rfl⟩

/-- Six writes to the synthesizer over an empty queue (60_exceptions.md R369). -/
theorem Audio.load_wf {u : Audio} (h : u.wf = true) (bs : List Byte) : ∀ r ∈ u.load bs, r.1.wf = true := by
  have write (r v : Byte) {w : Audio} : w.wf = true → (w.synthSet r v).wf = true := (w.synthSet_only r v).wf
  iterate 9 refine forall_mem_bind fun _ _ => ?_
  exact forall_mem_some (Audio.wf_setLastSetCycle
    (write _ _ (write _ _ (write _ _ (write _ _ (write _ _ (write _ _ (Audio.wf_clearQueue h))))))) _)

theorem System.loadDevice_inv {y : System} (h : y.inv = true) (d : DeviceId) (bs : List Byte) :
    ∀ r ∈ y.loadDevice d bs, r.1.inv = true := by
  obtain ⟨-, -, -, -, hcart, haudio⟩ := (System.inv_iff y).1 h
  cases d with
  | riot => exact Option.forall_mem_map.2 fun r hr => System.inv_setRiot h (Riot.load_wf bs r hr)
  | tia => exact Option.forall_mem_map.2 fun r hr => System.inv_setAudio h (Audio.load_wf haudio bs r hr)
  | cart =>
    refine Option.forall_mem_map.2 fun r hr => ?_
    obtain ⟨hv, hwf⟩ := Cart.load_wf hcart bs r hr
    exact System.inv_setCart_of_wf h hv hwf
  | null => exact forall_mem_some h

theorem System.loadDevices_inv : ∀ (ds : List DeviceId) {y : System}, y.inv = true → ∀ (bs : List Byte),
    ∀ r ∈ System.loadDevices ds y bs, r.1.inv = true
  | [], _, h, _ => forall_mem_some h
  | d :: ds, _, h, _ => forall_mem_bind fun _ _ => forall_mem_bind fun r hr =>
      System.loadDevices_inv ds (System.loadDevice_inv h d _ r hr) _

theorem State.loadCPU_inv {s : State} (h : s.inv = true) (bs : List Byte) : ∀ r ∈ s.loadCPU bs, r.1.inv = true := by
  unfold State.loadCPU
  iterate 17 refine forall_mem_bind fun _ _ => ?_
  exact forall_mem_some h

theorem State.load_inv {s : State} (h : s.inv = true) (bs : List Byte) : ∀ t ∈ s.load bs, t.inv = true :=
  forall_mem_bind fun _ _ => forall_mem_bind fun _ _ => forall_mem_bind fun _ _ => forall_mem_ite <|
    forall_mem_bind fun y hy => forall_mem_bind fun t ht => forall_mem_bind fun _ _ => forall_mem_some <|
      State.loadCPU_inv (s := s.setSys y.1) (System.loadDevices_inv _ h _ y hy) _ t ht

end Sys2Proof.Machine
end

section
/-! The invariant through reset and the host's calls (70_reset_and_hazards.md R400 to R403, R440). -/

namespace Sys2Proof.Machine

/-! ## Reset (R401, R402; 20_memory.md R124; 60_exceptions.md R332, R367) -/

theorem Cart.startBank_lt {c : Cart} (h : c.variant.sizeOk c.romSize = true) : c.variant.startBank < c.bankCount := by
  have hpos := Cart.bankCount_pos h
  unfold Cart.bankCount at hpos ⊢
  cases hv : c.variant
  case c3F | c3E => rw [hv] at hpos; exact hpos
  all_goals simp [CartVariant.startBank]

theorem CartVariant.ramBanks_pos (v : CartVariant) : 0 < v.ramBanks := by
  cases v <;> decide

theorem Cart.reset_wf {c : Cart} {r : ResetDraws} (h : c.wf = true) (hr : Memory.wf c.variant.ramSize r.cartRam = true) :
    (c.reset r).wf = true := by
  obtain ⟨hbanks, hrom, -⟩ := (Cart.wf_iff c).1 h
  obtain ⟨hsize, -⟩ := (Cart.banksWf_iff c).1 hbanks
  have hram : (if c.variant = .c3E then r.ramBank3E.val else 0) < c.variant.ramBanks := by
    split
    · next hv => rw [hv]; exact r.ramBank3E.isLt
    · exact c.variant.ramBanks_pos
  have hreset : (c.reset r).banksWf = true := (Cart.banksWf_iff _).2
    ⟨hsize, Cart.startBank_lt hsize, show 5 < 8 by decide, show 6 < 8 by decide, hram, nofun, nofun⟩
  exact (Cart.wf_iff _).2 ⟨hreset, hrom, hr⟩

/-- The resets of RIOT, TIA and cartridge. -/
theorem System.resetDevices_eq {y : System} (h : y.devices = attachOrder) :
    y.devices.foldl System.resetDevice y = { y with
      riot := y.riot.reset y.cfg.resets
      audio := y.audio.reset
      cart := y.cart.reset y.cfg.resets } :=
  calc y.devices.foldl System.resetDevice y = attachOrder.foldl System.resetDevice y := by rw [h]
    _ = _ := rfl

theorem System.resetDevices_inv {y : System} (h : y.inv = true) : (y.devices.foldl System.resetDevice y).inv = true := by
  obtain ⟨hcfg, hdraws, hd, -, hcart, haudio⟩ := (System.inv_iff y).1 h
  obtain ⟨hriot, hram⟩ := Bool.and_eq_true_iff.1 hdraws
  rw [System.resetDevices_eq hd]
  exact (System.inv_iff _).2 ⟨hcfg, hdraws, hd, hriot, Cart.reset_wf hcart hram, rfl⟩

/-- What a CPU reset leaves before it reads its vector (R402). -/
def State.resetRegisters (s : State) : State :=
  { s with
    a := s.sys.cfg.resets.a
    x := s.sys.cfg.resets.x
    y := s.sys.cfg.resets.y
    ir := s.sys.cfg.resets.ir
    sp := s.sys.cfg.spReset.toByte
    flags := resetFlags s.sys.cfg.resets
    sys := s.sys.setStatus { stop := false, fatal := false, irq := false, nmi := false } }

theorem State.cpuReset_eq (s : State) : s.cpuReset =
    (s.resetRegisters.read16 resetVector).2.setPC (s.resetRegisters.read16 resetVector).1 := rfl

theorem State.cpuReset_inv {s : State} (h : s.inv = true) : s.cpuReset.inv = true := by
  rw [s.cpuReset_eq]
  exact (State.read16High_run (p := resetVector) (by decide) (by decide) s.resetRegisters).inv h

theorem State.systemReset_eq (s : State) : s.systemReset =
    (s.setSys (s.sys.devices.foldl System.resetDevice s.sys)).cpuReset.setSys
      ((s.setSys (s.sys.devices.foldl System.resetDevice s.sys)).cpuReset.sys.setCycles 0) := rfl

theorem State.inv_setSys (y : System) (s : State) : (s.setSys y).inv = y.inv := rfl

theorem State.systemReset_inv {s : State} (h : s.inv = true) : s.systemReset.inv = true := by
  rw [s.systemReset_eq, State.inv_setSys, System.inv_setCycles]
  exact State.cpuReset_inv (s := s.setSys (s.sys.devices.foldl System.resetDevice s.sys)) (System.resetDevices_inv h)

/-- Settles O12: every parameter of the default configuration is in range and every store of the blank machine is empty. -/
theorem resetSatisfiesInvariant : Obligations.ResetSatisfiesInvariant := by
  unfold Obligations.ResetSatisfiesInvariant
  decide

/-! ## `execute` (60_exceptions.md R300) -/

/-- `execute` takes steps until a check ends it. -/
theorem execute_inv : ∀ (n : Nat) {s : State} {r : Bool × State}, s.inv = true → execute n s = .next r → r.2.inv = true
  | 0, s, r, hs, h => by
    rw [execute, executeLoop_zero] at h
    cases h
    exact State.clearStop_inv hs
  | n + 1, s, r, hs, h => by
    cases hr : s.running with
    | false =>
      rw [execute_of_fatal (by simpa [State.running] using hr)] at h
      cases h
      exact State.clearStop_inv hs
    | true =>
      obtain ⟨t, ht⟩ := step_next_of_running hr
      have hinv : t.inv = true := stepKeepsInvariant s t hs ht
      rw [execute_succ hr ht, executeLoop_eq] at h
      split at h
      · cases h; exact hinv
      · split at h
        · cases h; exact hinv
        · exact execute_inv n hinv h

/-! ## The other calls -/

theorem Cart.bank_wf {c : Cart} (h : c.wf = true) (b : Nat) : (c.bank b).wf = true :=
  Cart.wf_of_sameStores h (c.bank_sameStores b) (Cart.bank_banksWf b (Cart.banksWf_of_wf h))

theorem Cart.patch_wf {c d : Cart} (h : c.wf = true) {o : Nat} (ho : o < 4096) {v : Byte} (hp : c.patch o v = some d) :
    d.variant = c.variant ∧ d.wf = true := by
  obtain ⟨hbanks, hrom, hram⟩ := (Cart.wf_iff c).1 h
  have hcell := Cart.cell_ok hbanks ho
  unfold Cart.patch at hp
  split at hp
  · next k hk =>
    rw [hk] at hcell
    cases hp
    exact ⟨rfl, (Cart.wf_iff _).2 ⟨hbanks, Memory.wf_write hrom hcell v, hram⟩⟩
  · cases hp
  · cases hp

theorem State.patch_inv {s : State} (h : s.inv = true) (p : Word) (v : Byte) : (s.patch p v).2.inv = true := by
  obtain ⟨-, -, -, -, hcart, -⟩ := (System.inv_iff s.sys).1 h
  unfold State.patch
  split
  · split
    · next c hc =>
      obtain ⟨hv, hwf⟩ := Cart.patch_wf hcart (windowOffset_lt (busAddr p)) hc
      exact System.inv_setCart_of_wf h hv hwf
    · exact h
  · exact h

theorem System.resetCycles_inv {y : System} (h : y.inv = true) : y.resetCycles.inv = true := by
  obtain ⟨-, -, hd, -⟩ := (System.inv_iff y).1 h
  rw [System.resetCycles_eq hd]
  exact h

theorem Audio.callback_wf {u : Audio} (h : u.wf = true) (cfg : Config) (n : Nat) : (u.callback cfg n).2.wf = true := by
  obtain ⟨-, -, -, -, -, -, -, hwf⟩ := u.callback_keeps cfg n
  exact hwf h

theorem State.audioCallback_inv {s : State} (h : s.inv = true) (n : Nat) : (s.audioCallback n).2.inv = true := by
  obtain ⟨-, -, -, -, -, haudio⟩ := (System.inv_iff s.sys).1 h
  unfold State.audioCallback
  split
  · exact System.inv_setAudio h (Audio.callback_wf haudio s.sys.cfg n)
  · exact h

theorem Audio.setMuted_wf {u : Audio} (h : u.wf = true) (b : Bool) : (u.setMuted b).wf = true := by
  cases b with
  | false => exact h
  | true => exact Audio.wf_clearQueue h

/-- Settles O15: each call is a reset, a run of steps, one bus access, or the change of one device to a legal one. -/
theorem hostCallsKeepInvariant : Obligations.HostCallsKeepInvariant := by
  intro h s t hs hattach hload ht
  obtain ⟨-, -, -, -, hcart, haudio⟩ := (System.inv_iff s.sys).1 hs
  cases h with
  | attach d => exact absurd rfl (hattach d)
  | reset => cases ht; exact State.systemReset_inv hs
  | execute n =>
    simp only [HostCall.apply] at ht
    split at ht
    · next r hr => cases ht; exact execute_inv n hs hr
    · cases ht
    · cases ht
  | peek p => cases ht; exact (System.peek_effect p s.sys).inv hs
  | poke p v => cases ht; exact (System.poke_effect p v s.sys).inv hs
  | bank b =>
    cases ht
    exact System.inv_setCart_of_wf hs (s.sys.cart.bank_sameStores b).variant (Cart.bank_wf hcart b)
  | patch p v => cases ht; exact State.patch_inv hs p v
  | resetCycles => cases ht; exact System.resetCycles_inv hs
  | audioCallback n => cases ht; exact State.audioCallback_inv hs n
  | mute b => cases ht; exact System.inv_setAudio hs (Audio.setMuted_wf haudio b)
  | load bytes =>
    cases ht
    obtain ⟨u, hu⟩ := Option.ne_none_iff_exists'.1 (hload bytes rfl)
    rw [hu]
    exact State.load_inv hs bytes u hu
  | stop | irq | nmi | lockDataBus b | lockBank b | requestCallback k n | takeFragments | setVolume p =>
    cases ht
    exact hs

end Sys2Proof.Machine
end

section
/-! Cycle accounting: a step costs its interrupt entry and its instruction (70_reset_and_hazards.md R410 to R415). -/

namespace Sys2Proof

/-- Whether an opcode has a row does not depend on the operand bytes: the 256 opcodes evaluate alike. (`decide` refuses a
statement with free operand bytes; its proof does not.) -/
theorem instrOf_isSome (b1 b2 : Byte) : ∀ op : Byte, (instrOf op b1 b2).isSome = legalOpcode op :=
  of_decide_eq_true rfl

theorem operandBytesOf_of_illegal {op : Byte} (h : legalOpcode op = false) : operandBytesOf op = 0 := by
  have hrow : instrOf op 0 0 = none := Option.isNone_iff_eq_none.1 (Option.isSome_eq_false_iff.1 h)
  rw [operandBytesOf, hrow]
  rfl

namespace Machine

/-! ## The instruction's cycles (R411 to R413) -/

/-- An instruction's fetched bytes are part of its cost; the rest is what its meaning spends. -/
theorem encode_length_le_cost (i : Instr) (s : State) : (encode i).length ≤ Instr.cost i s := by
  have hbase : (encode i).length ≤ Instr.baseCycles i := by
    cases i <;> exact Nat.le_of_ble_eq_true rfl
  exact hbase.trans (Nat.le_add_right _ _)

/-- Enough bytes are fetched for a legal opcode, so only an illegal one does not decode, and it has no operand bytes. -/
theorem State.operandBytes_of_error {s : State} {e : DecodeError} (h : decode s.fetchInstruction.1 = .error e) :
    operandBytesOf s.fetchOpcode.1 = 0 := by
  have hfetched := State.fetchBytes_length (operandBytesOf s.fetchOpcode.1) s.fetchOpcode.2
  generalize hbs : (State.fetchBytes (operandBytesOf s.fetchOpcode.1) s.fetchOpcode.2).1 = bs at hfetched
  have hd : decode (s.fetchOpcode.1 :: bs) = .error e := by rw [← hbs]; exact h
  cases hrow : instrOf s.fetchOpcode.1 (bs.getD 0 0) (bs.getD 1 0) with
  | none => exact operandBytesOf_of_illegal (by rw [← instrOf_isSome (bs.getD 0 0) (bs.getD 1 0), hrow]; rfl)
  | some i =>
    obtain ⟨-, hcount, -⟩ := Laws.EncodedForm.all i
    rw [(instrOf_readFrom hrow).opcode] at hcount
    rw [decode_cons_eq_ok_iff.2 ⟨hrow, by omega, rfl⟩] at hd
    cases hd

/-- The cost of the instruction fetched next, in the state its bytes leave; one for an illegal opcode. -/
def State.nextCost (s : State) : Nat :=
  match decode s.fetchInstruction.1 with
  | .ok (i, _) => Instr.cost i s.fetchInstruction.2
  | .error _ => 1

theorem State.nextCost_of_ok {s : State} {i : Instr} {rest : List Byte} (h : decode s.fetchInstruction.1 = .ok (i, rest)) :
    s.nextCost = Instr.cost i s.fetchInstruction.2 := by
  rw [State.nextCost, h]

theorem State.nextCost_of_error {s : State} {e : DecodeError} (h : decode s.fetchInstruction.1 = .error e) :
    s.nextCost = 1 := by
  rw [State.nextCost, h]

/-- The fetches and the execution of an instruction are one run of its cost. -/
theorem runInstruction_cycles {s t : State} (hq : s.sys.cfg.tiaVideo = .quiet) (h : runInstruction s = .next t) :
    t.sys.cycles = s.sys.cycles + BitVec.ofNat 32 (s.nextCost * s.sys.cfg.spc) := by
  have hf := s.fetchInstruction_run
  obtain ⟨e, hd, rfl⟩ | ⟨i, rest, u, hd, hu, rfl⟩ := runInstruction_cases h
  · rw [State.operandBytes_of_error hd] at hf
    rw [State.nextCost_of_error hd]
    exact hf.cycles hq
  · obtain ⟨-, -, hop⟩ := State.fetchInstruction_decode hd
    obtain ⟨-, hcount, -⟩ := Laws.EncodedForm.all i
    obtain ⟨ls, hx⟩ := exec_run hu
    have hle := encode_length_le_cost i s.fetchInstruction.2
    have hlen : 1 + operandBytesOf s.fetchOpcode.1 = (encode i).length := by
      rw [hop, hcount, Nat.add_comm]
      rfl
    have hsum : 1 + operandBytesOf s.fetchOpcode.1 + (Instr.cost i s.fetchInstruction.2 - (encode i).length)
        = s.nextCost := by
      rw [State.nextCost_of_ok hd]
      omega
    exact (hf.trans' hx hsum rfl).cycles hq

/-! ## The interrupt entry's cycles (R414) -/

theorem State.serviceInterrupt_cycles {s : State} (hq : s.sys.cfg.tiaVideo = .quiet) :
    s.serviceInterrupt.sys.cycles = s.sys.cycles + BitVec.ofNat 32 ((if s.noInterrupt then 0 else 7) * s.sys.cfg.spc) := by
  unfold State.serviceInterrupt State.noInterrupt
  cases hn : s.sys.status.nmi with
  | true => exact (State.interruptEntry_run (vec := nmiVector) (by decide) (by decide) (s.setSys _)).cycles hq
  | false =>
    cases hi : s.sys.status.irq && !s.flags.i with
    | true => exact (State.interruptEntry_run (vec := irqVector) (by decide) (by decide) (s.setSys _)).cycles hq
    | false => simp

/-- Settles O16: the entry and the instruction are two runs of accesses, of the cycles the table gives each. -/
theorem cycleAccounting : Obligations.CycleAccounting := by
  intro s t hq h u entry cost
  have hcfg : u.sys.cfg = s.sys.cfg := s.clearStop.serviceInterrupt_stepKept.steady.cfg
  have hentry : u.sys.cycles = s.sys.cycles + BitVec.ofNat 32 (entry * s.sys.cfg.spc) :=
    State.serviceInterrupt_cycles (s := s.clearStop) hq
  have hrun : t.sys.cycles = u.sys.cycles + BitVec.ofNat 32 (cost * s.sys.cfg.spc) :=
    hcfg ▸ runInstruction_cycles (hcfg ▸ hq) (step_next h).2
  rw [hrun, hentry, Nat.add_mul, BitVec.ofNat_add, BitVec.add_assoc]

end Machine

end Sys2Proof
end

section
/-! What `System.reset()` leaves: the devices' resets, the CPU's draws, and PC from the vector the reset mapping names
(70_reset_and_hazards.md R400 to R405). -/

namespace Sys2Proof.Machine

/-! ## Reading a vector: no hotspot, no observer, a ROM byte -/

/-- No variant has a hotspot in the window's last four bytes (20_memory.md R98 to R106). -/
theorem Cart.hotspot_vector {o : Nat} (h : 0xFFC ≤ o) (c : Cart) : c.hotspot o = c := by
  have range {first : Nat} (hf : first + c.bankCount ≤ 0xFFC) : c.rangeHotspot first o = c := if_neg (by omega)
  unfold Cart.hotspot
  cases hv : c.variant
  case f8 | f6 | f4 | f8sc | f6sc | f4sc => exact range (by simp [Cart.bankCount, hv])
  case e0 => exact (if_neg (by omega)).trans ((if_neg (by omega)).trans (if_neg (by omega)))
  case e7 => exact (if_neg (by omega)).trans (if_neg (by omega))
  all_goals rfl

/-- An unarmed FE cartridge only watches for $01FE (20_memory.md R123). -/
theorem Cart.observe_unarmed {c : Cart} (h : c.feArmed = false) {a : BusAddr} (ha : a ≠ 0x01FE) (d : Byte) :
    c.observe a d = c := by
  have hfe : c.feAccess a d = c := by simp only [Cart.feAccess, h, Bool.false_eq_true, if_false, if_neg ha]
  rw [Cart.observe, hfe, ite_self]

theorem System.feObserve_of_observe {y : System} {a : BusAddr} {d : Byte} (h : y.cart.observe a d = y.cart) :
    y.feObserve a d = y := by
  unfold System.feObserve
  split
  · next hv =>
    rw [Cart.observe_fe hv.1] at h
    rw [h]
    rfl
  · rfl

theorem System.latch_eq (v : Byte) (y : System) :
    y.latch v = { y with dataBus := if y.dataBusLocked then y.dataBus else v } := by
  unfold System.latch
  split <;> rfl

/-- The devices are attached in their order, and an FE cartridge is not armed. -/
structure System.Disarmed (y : System) : Prop where
  devices : y.devices = attachOrder
  unarmed : y.cart.feArmed = false

/-- A read of a vector's byte answers the ROM byte the mapping names and does nothing but latch it. -/
theorem System.peek_vector {y : System} (h : y.Disarmed) {p : Word} (h12 : p.getLsbD 12 = true)
    (hp : 0xFFC ≤ p.toNat % 4096) {k : Nat} (hc : y.cart.cell (p.toNat % 4096) = .rom k) :
    y.peek p = (y.cart.rom.read k, y.latch (y.cart.rom.read k)) := by
  rw [← busAddr_getLsbD (by decide)] at h12
  rw [← windowOffset_busAddr] at hp hc
  have hhot := y.cart.hotspot_vector hp
  have hfetch : y.fetchByte (busAddr p) = (y.cart.rom.read k, y) := by
    rw [System.fetchByte_window h12 h.devices, System.cartPeek_rom h12 (by rw [hhot]; exact hc), hhot]
    rfl
  have hne : busAddr p ≠ 0x01FE := fun e => by rw [e] at h12; cases h12
  have hobserve (v : Byte) : (y.latch v).feObserve (busAddr p) v = y.latch v :=
    System.feObserve_of_observe (by rw [System.latch_cart]; exact Cart.observe_unarmed h.unarmed hne v)
  rw [System.peek, hfetch, hobserve]

theorem State.read_vector {s : State} (h : s.sys.Disarmed) {p : Word} (h12 : p.getLsbD 12 = true)
    (hp : 0xFFC ≤ p.toNat % 4096) {k : Nat} (hc : s.sys.cart.cell (p.toNat % 4096) = .rom k) :
    s.read p = (s.sys.cart.rom.read k,
      { s with lastAccessWasRead := true, sys := s.sys.tick.latch (s.sys.cart.rom.read k) }) := by
  have hpeek := System.peek_vector (y := s.sys.tick) ⟨h.devices, h.unarmed⟩ h12 hp hc
  show ((s.sys.tick.peek p).1, (s.setSys (s.sys.tick.peek p).2).setLastRead true) = _
  rw [hpeek]
  rfl

/-- Two reads of the reset vector (R402). -/
theorem State.read16_resetVector {s : State} (h : s.sys.Disarmed) {k k' : Nat} (hk : s.sys.cart.cell 0xFFC = .rom k)
    (hk' : s.sys.cart.cell 0xFFD = .rom k') : s.read16 resetVector =
      (wordOf (s.sys.cart.rom.read k') (s.sys.cart.rom.read k),
        { s with
          lastAccessWasRead := true
          sys := { s.sys with
            cycles := s.sys.tick.tick.cycles
            dataBus := if s.sys.dataBusLocked then s.sys.dataBus else s.sys.cart.rom.read k' } }) := by
  have hlo := State.read_vector h (p := resetVector) rfl (by decide) hk
  rw [System.latch_eq] at hlo
  have hhi := State.read_vector (s := (s.read resetVector).2) (by rw [hlo]; exact ⟨h.devices, h.unarmed⟩)
    (p := resetVector + 1) rfl (by decide) (k := k') (by rw [hlo]; exact hk')
  rw [State.read16, hhi, hlo, System.latch_eq]
  cases hl : s.sys.dataBusLocked <;> simp [hl]

/-! ## The state after reset -/

theorem State.systemReset_of_attached {s : State} (hd : s.sys.devices = attachOrder) {k k' : Nat}
    (hk : (s.sys.cart.reset s.sys.cfg.resets).cell 0xFFC = .rom k)
    (hk' : (s.sys.cart.reset s.sys.cfg.resets).cell 0xFFD = .rom k') :
    s.systemReset = { s.resetRegisters with
      pc := wordOf (s.sys.cart.rom.read k') (s.sys.cart.rom.read k)
      lastAccessWasRead := true
      sys := { s.resetRegisters.sys with
        cycles := 0
        dataBus := if s.sys.dataBusLocked then s.sys.dataBus else s.sys.cart.rom.read k'
        riot := s.sys.riot.reset s.sys.cfg.resets
        audio := s.sys.audio.reset
        cart := s.sys.cart.reset s.sys.cfg.resets } } := by
  have hdevices := System.resetDevices_eq hd
  have hread := State.read16_resetVector
    (s := (s.setSys (s.sys.devices.foldl System.resetDevice s.sys)).resetRegisters)
    (by rw [hdevices]; exact ⟨hd, rfl⟩) (by rw [hdevices]; exact hk) (by rw [hdevices]; exact hk')
  rw [s.systemReset_eq, State.cpuReset_eq, hread, hdevices]
  rfl

theorem CartVariant.startBank_eq (v : CartVariant) :
    v.startBank = if v = .f8 ∨ v = .f8sc then 1 else if v = .e0 then 4 else 0 := by
  cases v <;> rfl

theorem Cart.reset_ramBank_e7 {c : Cart} (h : c.variant = .e7) (r : ResetDraws) : (c.reset r).ramBank = 0 := by
  simp [Cart.reset, h]

/-- Settles O57: the vector's bytes are ROM in every variant's reset mapping, and the rest is the resets' own fields. -/
theorem systemResetState : Obligations.SystemResetState := by
  intro s hd t c
  obtain ⟨k, hk⟩ : ∃ k, c.cell 0xFFC = .rom k := c.cell_high (by omega)
  obtain ⟨k', hk'⟩ : ∃ k, c.cell 0xFFD = .rom k := c.cell_high (by omega)
  have ht : t = _ := State.systemReset_of_attached hd hk hk'
  rw [ht]
  exact ⟨rfl, rfl, rfl, rfl, rfl, rfl, ⟨k, k', hk, hk', wordOf_eq_or _ _, rfl⟩, rfl, c.variant.startBank_eq, rfl, rfl, rfl,
    rfl, fun hv => Cart.reset_ramBank_e7 hv _, rfl, rfl, rfl, rfl, rfl, rfl, rfl, rfl, rfl, rfl, rfl, rfl, rfl, rfl, rfl, rfl,
    rfl⟩

end Sys2Proof.Machine
end

section
/-! The items of the save stream read back: each reader undoes its writer (70_reset_and_hazards.md R441). -/

namespace Sys2Proof.Machine

/-! ## Items (R441) -/

/-- A reader whose first part reads `a` goes on with `a`. -/
theorem bind_of_eq_some {α β : Type} {o : Option α} {a : α} {f : α → Option β} {r : Option β} (h : o = some a)
    (k : f a = r) : (o >>= f) = r := by
  rw [h]
  exact k

@[simp] theorem getInt_putInt (v : U32) (bs : List Byte) : getInt (putInt v ++ bs) = some (v, bs) := by
  have hv : v.extractLsb' 24 8 ++ v.extractLsb' 16 8 ++ v.extractLsb' 8 8 ++ v.extractLsb' 0 8 = v := by
    rw [BitVec.extractLsb'_append_extractLsb'_eq_extractLsb' (by rfl),
      BitVec.extractLsb'_append_extractLsb'_eq_extractLsb' (by rfl),
      BitVec.extractLsb'_append_extractLsb'_eq_extractLsb' (by rfl)]
    exact BitVec.extractLsb'_eq_self
  exact congrArg (fun w => some (w, bs)) hv

theorem getNat_putNat {n : Nat} (h : n < 2 ^ 32) (bs : List Byte) : getNat (putNat n ++ bs) = some (n, bs) := by
  simp [getNat, putNat, Nat.mod_eq_of_lt (show n < 4294967296 from h)]

@[simp] theorem getByteInt_putByteInt (v : Byte) (bs : List Byte) : getByteInt (putByteInt v ++ bs) = some (v, bs) := by
  simp [getByteInt, putByteInt]

/-- A narrow register is saved as a number and read as a byte. -/
@[simp] theorem getByteInt_putNat_toNat {w : Nat} (v : BitVec w) (bs : List Byte) :
    getByteInt (putNat v.toNat ++ bs) = some (v.setWidth 8, bs) := by
  simp [getByteInt, putNat]

@[simp] theorem getBool_putBool (b : Bool) (bs : List Byte) : getBool (putBool b ++ bs) = some (b, bs) := by
  cases b <;> rfl

theorem expectString_putString {name : List Byte} (h : name.length < 2 ^ 32) (bs : List Byte) :
    expectString name (putString name ++ bs) = some ((), bs) := by
  simp [expectString, getString, putString, getNat_putNat h, getRaw]

theorem expectString_of_eq {name name' : List Byte} (h : name' = name) (hlen : name'.length < 2 ^ 32) (bs : List Byte) :
    expectString name (putString name' ++ bs) = some ((), bs) :=
  h ▸ expectString_putString hlen bs

theorem getByteInts_flatMap : ∀ (vs bs : List Byte), getByteInts vs.length (vs.flatMap putByteInt ++ bs) = some (vs, bs)
  | [], _ => rfl
  | v :: vs, bs => by simp [getByteInts, getByteInts_flatMap vs bs]

theorem getBytes_putBytes {vs : List Byte} {n : Nat} (hn : vs.length = n) (h : n < 2 ^ 32) (bs : List Byte) :
    getBytes n (putBytes vs ++ bs) = some (vs, bs) := by
  subst hn
  simp [getBytes, putBytes, getNat_putNat h, getByteInts_flatMap]

/-! ## Stores -/

/-- A canonical store from index `k` either starts with byte `k` or lists nothing there. -/
theorem Memory.wfFrom_cases {size k : Nat} {m : Memory} (h : Memory.wfFrom size k m = true) :
    Memory.wfFrom size (k + 1) m = true
      ∨ ∃ v m', m = (k, v) :: m' ∧ v ≠ Memory.fill ∧ Memory.wfFrom size (k + 1) m' = true := by
  match m with
  | [] => exact .inl rfl
  | (i, v) :: m' =>
    simp only [Memory.wfFrom, Bool.and_eq_true, decide_eq_true_eq, bne_iff_ne] at h ⊢
    obtain ⟨⟨⟨hlo, hi⟩, hv⟩, hm⟩ := h
    obtain rfl | hlt := hlo.eq_or_lt
    · exact .inr ⟨v, m', rfl, hv, hm⟩
    · exact .inl ⟨⟨⟨hlt, hi⟩, hv⟩, hm⟩

/-- A canonical store is the one its bytes are put back into. -/
theorem Memory.ofBytes_map_read {size : Nat} : ∀ {n k : Nat} {m : Memory}, Memory.wfFrom size k m = true → k + n = size →
    Memory.ofBytes k ((List.range' k n).map m.read) = m
  | 0, k, m, h, hk => by
    match m with
    | [] => rfl
    | (i, v) :: m' =>
      simp only [Memory.wfFrom, Bool.and_eq_true, decide_eq_true_eq] at h
      omega
  | n + 1, k, m, h, hk => by
    rw [List.range'_succ, List.map_cons, Memory.ofBytes]
    obtain hnone | ⟨v, m', rfl, hv, hm⟩ := Memory.wfFrom_cases h
    · rw [if_pos (Memory.read_below hnone (Nat.lt_succ_self k))]
      exact Memory.ofBytes_map_read hnone (by omega)
    · have hhead : Memory.read ((k, v) :: m') k = v := if_pos rfl
      have htail : (List.range' (k + 1) n).map (Memory.read ((k, v) :: m'))
          = (List.range' (k + 1) n).map (Memory.read m') := by
        refine List.map_congr_left fun j hj => if_neg ?_
        have := (List.mem_range'_1.1 hj).1
        omega
      rw [hhead, if_neg hv, htail, Memory.ofBytes_map_read hm (by omega)]

theorem Memory.ofBytes_bytes {n : Nat} {m : Memory} (h : Memory.wf n m = true) :
    Memory.ofBytes 0 (Memory.bytes n m) = m := by
  rw [Memory.bytes, List.range_eq_range']
  exact Memory.ofBytes_map_read h (Nat.zero_add n)

theorem Memory.bytes_length (n : Nat) (m : Memory) : (Memory.bytes n m).length = n := by
  simp [Memory.bytes]

end Sys2Proof.Machine
end

section
/-! The save blob read back, device by device: what a load of another state's save leaves (70_reset_and_hazards.md R442 to
R446; 20_memory.md R95; 60_exceptions.md R369). -/

namespace Sys2Proof.Machine

/-! ## RIOT (R444) -/

theorem intervalOfShift_shift (i : Interval) : intervalOfShift i.shift = some i := by cases i <;> rfl

theorem Interval.shift_lt (i : Interval) : i.shift < 2 ^ 32 := by cases i <;> decide

theorem Riot.load_save {r : Riot} (h : Memory.wf 128 r.ram = true) (bs : List Byte) :
    Riot.load (r.save ++ bs) = some (r, bs) := by
  simp only [Riot.save, List.append_assoc]
  refine bind_of_eq_some (expectString_putString (by decide) _) ?_
  refine bind_of_eq_some (getBytes_putBytes (Memory.bytes_length 128 r.ram) (by decide) _) ?_
  iterate 5 refine bind_of_eq_some (getByteInt_putByteInt _ _) ?_
  refine bind_of_eq_some (getNat_putNat (Interval.shift_lt _) _) ?_
  refine bind_of_eq_some (intervalOfShift_shift _) ?_
  refine bind_of_eq_some (getInt_putInt _ _) ?_
  iterate 5 refine bind_of_eq_some (getBool_putBool _ _) ?_
  rw [Memory.ofBytes_bytes h]

/-! ## CPU (R443) -/

theorem ExecStatus.ofNat_toNat (e : ExecStatus) : ExecStatus.ofNat e.toNat = e := by
  obtain ⟨stop, fatal, irq, nmi⟩ := e
  revert stop fatal irq nmi
  decide

theorem ExecStatus.toNat_lt (e : ExecStatus) : e.toNat < 2 ^ 32 := by
  obtain ⟨stop, fatal, irq, nmi⟩ := e
  revert stop fatal irq nmi
  decide

theorem State.loadCPU_saveCPU (s t : State) (bs : List Byte) :
    t.loadCPU (s.saveCPU ++ bs) = some ({ s with sys := t.sys.setStatus s.sys.status }, bs) := by
  have hpc : s.pc.toNat < 2 ^ 32 := s.pc.isLt.trans (by decide)
  simp only [State.saveCPU, List.append_assoc]
  refine bind_of_eq_some (expectString_putString (by decide) _) ?_
  iterate 5 refine bind_of_eq_some (getByteInt_putByteInt _ _) ?_
  refine bind_of_eq_some (getNat_putNat hpc _) ?_
  iterate 7 refine bind_of_eq_some (getBool_putBool _ _) ?_
  refine bind_of_eq_some (getNat_putNat s.sys.status.toNat_lt _) ?_
  refine bind_of_eq_some (getInt_putInt _ _) ?_
  refine bind_of_eq_some (getBool_putBool _ _) ?_
  simp only [BitVec.ofNat_toNat, BitVec.setWidth_eq, Bool.not_not, ExecStatus.ofNat_toNat]

/-! ## Sound registers (60_exceptions.md R369) -/

/-- A channel with the registers of `k` written to it in the order of the stream. -/
def Channel.setRegs (k ch : Channel) : Channel :=
  ((ch.setReg .audc (k.audc.setWidth 8)).setReg .audf (k.audf.setWidth 8)).setReg .audv (k.audv.setWidth 8)

theorem Channel.setReg_audc (r : SoundReg) (v : Byte) (ch : Channel) : (ch.setReg r v).audc = (ch.store r v).audc := by
  rw [Channel.setReg_eq_redivide, Channel.redivide_eq]

theorem Channel.setReg_audf (r : SoundReg) (v : Byte) (ch : Channel) : (ch.setReg r v).audf = (ch.store r v).audf := by
  rw [Channel.setReg_eq_redivide, Channel.redivide_eq]

theorem Channel.setReg_audv (r : SoundReg) (v : Byte) (ch : Channel) : (ch.setReg r v).audv = (ch.store r v).audv := by
  rw [Channel.setReg_eq_redivide, Channel.redivide_eq]

theorem Channel.setReg_divMax (r : SoundReg) (v : Byte) (ch : Channel) :
    (ch.setReg r v).divMax = dividerPeriod (ch.setReg r v).audc (ch.setReg r v).audf := by
  rw [Channel.setReg_eq_redivide, Channel.redivide_eq]

/-- After the three writes registers and divider period are those of `k` (R342). -/
theorem Channel.setRegs_registers {k : Channel} (h : k.wf = true) (ch : Channel) : (k.setRegs ch).audc = k.audc
    ∧ (k.setRegs ch).audf = k.audf ∧ (k.setRegs ch).audv = k.audv ∧ (k.setRegs ch).divMax = k.divMax := by
  have hc : (k.setRegs ch).audc = k.audc := by
    simp [Channel.setRegs, Channel.setReg_audc, Channel.store]
  have hf : (k.setRegs ch).audf = k.audf := by
    simp [Channel.setRegs, Channel.setReg_audf, Channel.store]
  have hv : (k.setRegs ch).audv = k.audv := by
    simp [Channel.setRegs, Channel.setReg_audv, Channel.store]
  have hm : (k.setRegs ch).divMax = dividerPeriod (k.setRegs ch).audc (k.setRegs ch).audf := Channel.setReg_divMax _ _ _
  exact ⟨hc, hf, hv, by rw [hm, hc, hf, ((Channel.wf_iff k).1 h).1]⟩

/-- A register written with its own value changes nothing, the divider's period being the registers'. -/
theorem Channel.setReg_self {ch : Channel} (h : ch.wf = true) {r : SoundReg} {v : Byte} (hs : ch.store r v = ch) :
    ch.setReg r v = ch := by
  rw [Channel.setReg_eq_redivide, hs, Channel.redivide]
  exact if_pos ((Channel.wf_iff ch).1 h).1.symm

theorem Channel.setRegs_self {ch : Channel} (h : ch.wf = true) : ch.setRegs ch = ch := by
  have hc : ch.setReg .audc (ch.audc.setWidth 8) = ch :=
    Channel.setReg_self h (by simp [Channel.store])
  have hf : ch.setReg .audf (ch.audf.setWidth 8) = ch :=
    Channel.setReg_self h (by simp [Channel.store])
  have hv : ch.setReg .audv (ch.audv.setWidth 8) = ch :=
    Channel.setReg_self h (by simp [Channel.store])
  rw [Channel.setRegs, hc, hf, hv]

/-- The six registers as the stream has them. -/
def Audio.soundRegisters (u : Audio) : List (Byte × Byte) :=
  [(0x15, u.ch0.audc.setWidth 8), (0x16, u.ch1.audc.setWidth 8), (0x17, u.ch0.audf.setWidth 8),
    (0x18, u.ch1.audf.setWidth 8), (0x19, u.ch0.audv.setWidth 8), (0x1A, u.ch1.audv.setWidth 8)]

/-- `synth_set` of a list of registers in order. -/
def Audio.synthWrites (ws : List (Byte × Byte)) (u : Audio) : Audio := ws.foldl (fun w x => w.synthSet x.1 x.2) u

theorem Audio.synthWrites_soundRegisters (u w : Audio) : w.synthWrites u.soundRegisters =
    { w with ch0 := u.ch0.setRegs w.ch0, ch1 := u.ch1.setRegs w.ch1 } := by
  have reg (u : Audio) (v : Byte) := synthRegisterWrite.1 u v
  simp only [Audio.synthWrites, Audio.soundRegisters, List.foldl_cons, List.foldl_nil, reg, Channel.setRegs]

theorem Audio.load_save (u w : Audio) (bs : List Byte) : w.load (u.save ++ bs) =
    some ({ ({ w with queue := [] } : Audio).synthWrites u.soundRegisters with lastSetCycle := u.lastSetCycle }, bs) := by
  simp only [Audio.save, List.append_assoc]
  refine bind_of_eq_some (expectString_putString (by decide) _) ?_
  refine bind_of_eq_some (expectString_putString (by decide) _) ?_
  iterate 6 refine bind_of_eq_some (getByteInt_putNat_toNat _ _) ?_
  refine bind_of_eq_some (getInt_putInt _ _) ?_
  simp only [Audio.synthWrites, Audio.soundRegisters, List.foldl_cons, List.foldl_nil]

/-! ## Cartridge (20_memory.md R95) -/

/-- `d` with the saved registers and RAM of `c`. -/
def Cart.restore (c d : Cart) : Cart :=
  { d with
    ram := c.ram
    currentBank := c.currentBank
    slot1 := if c.variant = .e0 then c.slot1 else d.slot1
    slot2 := if c.variant = .e0 then c.slot2 else d.slot2
    ramBank := c.ramBank
    ramSelected := c.ramSelected
    feArmed := c.feArmed }

theorem Cart.bankCount_le {c : Cart} (h : c.variant.sizeOk c.romSize = true) : c.bankCount ≤ 256 := by
  unfold Cart.bankCount
  unfold CartVariant.sizeOk at h
  cases hv : c.variant <;> rw [hv] at h <;> simp at h ⊢ <;> omega

theorem CartVariant.ramSize_lt (v : CartVariant) : v.ramSize < 2 ^ 32 := by cases v <;> decide

theorem CartVariant.tag_length_lt (v : CartVariant) : v.tag.length < 2 ^ 32 := by cases v <;> decide

/-- A store of no bytes is empty. -/
theorem Memory.eq_nil_of_wf_zero {m : Memory} (h : Memory.wf 0 m = true) : m = [] := by
  rw [← Memory.ofBytes_bytes h]
  rfl

/-- A register that only one variant has rests in both cartridges of any other. -/
theorem Cart.resting_registers {c d : Cart} (hc : c.banksWf = true) (hd : d.banksWf = true) (hv : c.variant = d.variant) :
    (d.variant.ramBanks = 1 → c.ramBank = d.ramBank) ∧ (d.variant ≠ .c3E → c.ramSelected = d.ramSelected)
      ∧ (d.variant ≠ .fe → c.feArmed = d.feArmed) := by
  obtain ⟨-, -, -, -, hcram, hcsel, hcfe⟩ := (Cart.banksWf_iff c).1 hc
  obtain ⟨-, -, -, -, hdram, hdsel, hdfe⟩ := (Cart.banksWf_iff d).1 hd
  rw [hv] at hcram hcsel hcfe
  exact ⟨fun h => by omega, fun h => (Bool.eq_false_iff.2 (mt hcsel h)).trans (Bool.eq_false_iff.2 (mt hdsel h)).symm,
    fun h => (Bool.eq_false_iff.2 (mt hcfe h)).trans (Bool.eq_false_iff.2 (mt hdfe h)).symm⟩

/-- The variant's extra registers read back. -/
theorem Cart.loadRegs_saveRegs {c d : Cart} (hc : c.banksWf = true) (hd : d.banksWf = true) (hv : c.variant = d.variant)
    (bs : List Byte) : ({ d with currentBank := c.currentBank } : Cart).loadRegs (c.saveRegs ++ bs)
      = some ({ c.restore d with ram := d.ram }, bs) := by
  obtain ⟨-, hbank, hslot1, hslot2, hram, -⟩ := (Cart.banksWf_iff c).1 hc
  obtain ⟨restRam, restSel, restFe⟩ := Cart.resting_registers hc hd hv
  simp only [Cart.loadRegs, Cart.saveRegs, Cart.restore, Cart.bankCount, hv] at hbank hram ⊢
  cases hdv : d.variant <;> rw [hdv] at hbank hram restRam restSel restFe
  case c3E =>
    have hlt : c.ramBank < 32 := hram
    rw [List.append_assoc]
    refine bind_of_eq_some (getNat_putNat (hlt.trans (by decide)) _) ?_
    refine bind_of_eq_some (getBool_putBool _ _) ?_
    simp [Nat.mod_eq_of_lt hlt, restFe]
  case e0 =>
    have hlt : c.currentBank < 8 := hbank
    simp only [List.append_assoc]
    refine bind_of_eq_some (getNat_putNat (hlt.trans (by decide)) _) ?_
    refine bind_of_eq_some (getNat_putNat (hslot1.trans (by decide)) _) ?_
    refine bind_of_eq_some (getNat_putNat (hslot2.trans (by decide)) _) ?_
    refine bind_of_eq_some (getNat_putNat (by decide) _) ?_
    simp [Nat.mod_eq_of_lt hlt, Nat.mod_eq_of_lt hslot1, Nat.mod_eq_of_lt hslot2, restFe, restSel, restRam rfl]
  case e7 =>
    have hlt : c.currentBank < 8 := hbank
    have hlt' : c.ramBank < 4 := hram
    rw [List.append_assoc]
    refine bind_of_eq_some (getNat_putNat (hlt.trans (by decide)) _) ?_
    refine bind_of_eq_some (getNat_putNat (hlt'.trans (by decide)) _) ?_
    simp [Nat.mod_eq_of_lt hlt, Nat.mod_eq_of_lt hlt', restFe, restSel]
  case fe =>
    refine bind_of_eq_some (getBool_putBool _ _) ?_
    simp [restSel, restRam rfl]
  all_goals simp [restFe, restSel, restRam rfl]

theorem Cart.loadRam_saveRam {c d : Cart} (hc : Memory.wf c.variant.ramSize c.ram = true)
    (hd : Memory.wf d.variant.ramSize d.ram = true) (hv : c.variant = d.variant) (bs : List Byte) :
    d.loadRam (c.saveRam ++ bs) = some ({ d with ram := c.ram }, bs) := by
  rw [Cart.loadRam, Cart.saveRam, hv]
  rw [hv] at hc
  split
  · next hz =>
    rw [hz] at hc hd
    rw [Memory.eq_nil_of_wf_zero hc, ← Memory.eq_nil_of_wf_zero hd]
    rfl
  · refine bind_of_eq_some (getBytes_putBytes (Memory.bytes_length _ _) d.variant.ramSize_lt _) ?_
    simp only [Memory.ofBytes_bytes hc]

theorem Cart.load_save {c d : Cart} (hc : c.wf = true) (hd : d.wf = true) (hv : c.variant = d.variant)
    (hs : c.romSize = d.romSize) (bs : List Byte) : d.load (c.save ++ bs) = some (c.restore d, bs) := by
  obtain ⟨hcb, -, hcram⟩ := (Cart.wf_iff c).1 hc
  obtain ⟨hdb, -, hdram⟩ := (Cart.wf_iff d).1 hd
  obtain ⟨hsize, hbank, -⟩ := (Cart.banksWf_iff c).1 hcb
  have hcount : c.bankCount = d.bankCount := by rw [Cart.bankCount, Cart.bankCount, hv, hs]
  have hlt : c.currentBank < 2 ^ 32 := (hbank.trans_le (Cart.bankCount_le hsize)).trans (by decide)
  have hmod : c.currentBank % d.bankCount = c.currentBank := Nat.mod_eq_of_lt (by omega)
  simp only [Cart.save, List.append_assoc]
  refine bind_of_eq_some (expectString_of_eq (congrArg _ hv) c.variant.tag_length_lt _) ?_
  refine bind_of_eq_some (getNat_putNat hlt _) ?_
  simp only [hmod]
  refine bind_of_eq_some (Cart.loadRegs_saveRegs hcb hdb hv _) ?_
  exact Cart.loadRam_saveRam (d := { c.restore d with ram := d.ram }) hcram hdram hv bs

/-! ## The whole blob (R442, R445) -/

/-- `z` with the saved parts of `y`'s devices. -/
def System.restoreDevices (y z : System) : System :=
  { z with
    riot := y.riot
    cart := y.cart.restore z.cart
    audio := { ({ z.audio with queue := [] } : Audio).synthWrites y.audio.soundRegisters with
      lastSetCycle := y.audio.lastSetCycle } }

section LoadDevice
variable {z : System} {bs bs' : List Byte}

theorem System.loadDevice_riot {r : Riot} (h : Riot.load bs = some (r, bs')) :
    z.loadDevice .riot bs = some (z.setRiot r, bs') := by
  rw [System.loadDevice, h]; rfl

theorem System.loadDevice_tia {u : Audio} (h : z.audio.load bs = some (u, bs')) :
    z.loadDevice .tia bs = some (z.setAudio u, bs') := by
  rw [System.loadDevice, h]; rfl

theorem System.loadDevice_cart {c : Cart} (h : z.cart.load bs = some (c, bs')) :
    z.loadDevice .cart bs = some (z.setCart c, bs') := by
  rw [System.loadDevice, h]; rfl

end LoadDevice

theorem System.deviceName_length_lt (y : System) (d : DeviceId) : (y.deviceName d).length < 2 ^ 32 := by
  cases d with
  | riot => exact show tagRiot.length < 2 ^ 32 by decide
  | tia => exact show tagTia.length < 2 ^ 32 by decide
  | null => exact show tagNull.length < 2 ^ 32 by decide
  | cart => exact y.cart.variant.tag_length_lt

/-- One device read back under its name. -/
theorem System.loadDevices_cons {y z w : System} {d : DeviceId} (hname : y.deviceName d = z.deviceName d)
    (hload : ∀ bs, z.loadDevice d (y.saveDevice d ++ bs) = some (w, bs))
    (ds : List DeviceId) (bs : List Byte) :
    System.loadDevices (d :: ds) z ((d :: ds).flatMap (fun d => putString (y.deviceName d) ++ y.saveDevice d) ++ bs)
      = System.loadDevices ds w (ds.flatMap (fun d => putString (y.deviceName d) ++ y.saveDevice d) ++ bs) := by
  rw [List.flatMap_cons, List.append_assoc, List.append_assoc]
  refine bind_of_eq_some (expectString_of_eq hname (y.deviceName_length_lt d) _) ?_
  exact bind_of_eq_some (hload _) rfl

theorem System.loadDevices_save {y z : System} (hy : y.inv = true) (hz : z.inv = true)
    (hv : y.cart.variant = z.cart.variant) (hs : y.cart.romSize = z.cart.romSize) (bs : List Byte) :
    System.loadDevices attachOrder z (attachOrder.flatMap (fun d => putString (y.deviceName d) ++ y.saveDevice d) ++ bs)
      = some (y.restoreDevices z, bs) := by
  obtain ⟨-, -, -, hriot, hcy, -⟩ := (System.inv_iff y).1 hy
  obtain ⟨-, -, -, -, hcz, -⟩ := (System.inv_iff z).1 hz
  refine (System.loadDevices_cons (y := y) (z := z) rfl
    (fun _ => System.loadDevice_riot (Riot.load_save hriot _)) _ bs).trans ?_
  refine (System.loadDevices_cons (y := y) (z := z.setRiot y.riot) rfl
    (fun _ => System.loadDevice_tia (Audio.load_save y.audio z.audio _)) _ bs).trans ?_
  exact System.loadDevices_cons (y := y) (z := (z.setRiot y.riot).setAudio _) (d := .cart) (congrArg CartVariant.tag hv)
    (fun _ => System.loadDevice_cart (Cart.load_save hcy hcz hv hs _)) [] bs

theorem State.load_save {s t : State} (hs : s.inv = true) (ht : t.inv = true) (hv : t.sys.cart.variant = s.sys.cart.variant)
    (hsize : t.sys.cart.romSize = s.sys.cart.romSize) (hkey : t.sys.cart.romKey = s.sys.cart.romKey)
    (hlen : s.sys.cart.romKey.length < 2 ^ 32) : t.load s.save = some { s with
      sys := { s.sys.restoreDevices t.sys with cycles := s.sys.cycles, status := s.sys.status } } := by
  obtain ⟨-, -, hds, -⟩ := (System.inv_iff s.sys).1 hs
  obtain ⟨-, -, hdt, -⟩ := (System.inv_iff t.sys).1 ht
  simp only [State.save, List.append_assoc, hds]
  refine bind_of_eq_some (expectString_putString (by decide) _) ?_
  refine bind_of_eq_some (expectString_of_eq hkey.symm hlen _) ?_
  refine bind_of_eq_some (getNat_putNat (by decide) _) ?_
  simp only [hdt, if_true]
  refine bind_of_eq_some (System.loadDevices_save hs ht hv.symm hsize.symm _) ?_
  refine bind_of_eq_some (State.loadCPU_saveCPU _ _ _) ?_
  rw [← List.append_nil (putInt _)]
  exact bind_of_eq_some (getInt_putInt _ _) rfl

/-! ## Loading in the state saved -/

theorem Cart.restore_self (c : Cart) : c.restore c = c := by
  simp only [Cart.restore, ite_self]

/-- Six idle register writes leave an emptied queue behind (60_exceptions.md R369). -/
theorem System.restoreDevices_self {y : System} (h : y.inv = true) :
    y.restoreDevices y = { y with audio := { y.audio with queue := [] } } := by
  obtain ⟨-, -, -, -, -, haudio⟩ := (System.inv_iff y).1 h
  obtain ⟨h0, h1, -⟩ := (Audio.wf_iff y.audio).1 haudio
  simp only [System.restoreDevices, Audio.synthWrites_soundRegisters, Channel.setRegs_self h0, Channel.setRegs_self h1,
    Cart.restore_self]

/-- Settles O60: the load restores the saved parts; the six writes make the registers the saved ones, and are idle on the
registers of the state itself. -/
theorem saveLoadRoundTrip : Obligations.SaveLoadRoundTrip := by
  intro s t hs ht hv hsize hkey hlen c d u registers w
  obtain ⟨-, -, -, -, -, hu⟩ := (System.inv_iff s.sys).1 hs
  obtain ⟨h0, h1, -⟩ := (Audio.wf_iff u).1 hu
  have hw : w = { t.sys.audio with
      queue := []
      ch0 := u.ch0.setRegs t.sys.audio.ch0
      ch1 := u.ch1.setRegs t.sys.audio.ch1 } := Audio.synthWrites_soundRegisters u { t.sys.audio with queue := [] }
  obtain ⟨hc0, hf0, hv0, hm0⟩ := Channel.setRegs_registers h0 t.sys.audio.ch0
  obtain ⟨hc1, hf1, hv1, hm1⟩ := Channel.setRegs_registers h1 t.sys.audio.ch1
  refine ⟨State.load_save hs ht hv hsize hkey hlen, ?_⟩
  rw [hw, State.load_save hs hs rfl rfl rfl hlen, System.restoreDevices_self hs]
  exact ⟨hc0, hf0, hv0, hm0, hc1, hf1, hv1, hm1, rfl⟩

end Sys2Proof.Machine
end
